-- ==== Sys2Proof/Word.lean ====
section
/-! DEFINITION. The bit-vector types of the block: bytes of host memory, 32-bit registers, 64-bit
addresses (00_scope.md R13, R14, R15). Signed readings are `BitVec.toInt` (the spec's `s32`),
unsigned ones `BitVec.toNat` (`u32`), zero extension is `BitVec.setWidth` (`zext_N`), and the spec's
`rotl32(x, r)` is `BitVec.rotateLeft x r`. -/

namespace Sys2Proof

/-- A byte of host memory. -/
abbrev Byte := BitVec 8

/-- A 32-bit register of the window, and every 32-bit integer of the header. -/
abbrev Word := BitVec 32

/-- A 64-bit byte address (R13). -/
abbrev Addr := BitVec 64

end Sys2Proof
end

