-- ==== Sys2Proof/Config.lean ====
section
/-! DEFINITION. What is fixed when a block is built (00_scope.md section 5), and the free values the
spec leaves open. The build record is plain data that carries the spec's own bounds on it; the codec
primitives and the free values are opaque, so no proof can see what they are. -/

namespace Sys2Proof

/-- The codec family that owns an instance (R9). -/
inductive Family where
  | a
  | b
  deriving DecidableEq, Repr

/-- The build parameters (R6 to R11, and REG_BASE of 20_memory.md R61). A build outside the bounds
(M = 0 or M > 16, equal method codes, a misaligned window) is no value of this type: the spec refuses it
(92_eei_decisions.md D2, R8, R61). -/
structure Config where
  /-- MAGIC_LENGTH, written M (R6). -/
  magicLen : Nat
  /-- METHOD_CODE_RAW (R8). -/
  codeRaw : Byte
  /-- METHOD_CODE_A (R8). -/
  codeA : Byte
  /-- METHOD_CODE_B (R8). -/
  codeB : Byte
  /-- OWNER_FAMILY (R9). -/
  owner : Family
  /-- ACCEPT_FOREIGN_METHOD (R10). -/
  acceptForeign : Bool
  /-- FAST_SEED (R11). -/
  fastSeed : Word
  /-- FAST_DIGEST_MASK (R11). -/
  fastMask : Word
  /-- REG_BASE, the host address of the register window (20_memory.md R61). -/
  regBase : Addr
  magic_pos : 1 ≤ magicLen
  magic_le : magicLen ≤ 16
  raw_ne_a : codeRaw ≠ codeA
  raw_ne_b : codeRaw ≠ codeB
  a_ne_b : codeA ≠ codeB
  base_aligned : regBase.toNat % 256 = 0
  deriving DecidableEq, Repr

/-- HEADER_LENGTH, written H (R7). -/
def Config.headerLen (c : Config) : Nat := c.magicLen + 13

/-- The parameters of the spec's examples: M = 9, the default method codes, seed and mask, foreign
methods accepted. DESIGN CHOICE (assumption log 4): the owner is family B, as in the spec's own
scenario, and REG_BASE is 0, since the spec leaves both open. Unsafe only for claims about
`State.reset` itself. -/
def Config.standard : Config where
  magicLen := 9
  codeRaw := 0x00
  codeA := 0x01
  codeB := 0x02
  owner := .b
  acceptForeign := true
  fastSeed := 0x9747B28C
  fastMask := 0xFFFFFFFF
  regBase := 0
  magic_pos := by decide
  magic_le := by decide
  raw_ne_a := by decide
  raw_ne_b := by decide
  a_ne_b := by decide
  base_aligned := by decide

/-- `Config.standard` on an instance owned by family A, as in the spec's program P3. -/
def Config.standardA : Config := { Config.standard with owner := .a }

/-- Does the build accept the method byte of family `f` (R10, 41_dispatch.md R141)? -/
def Config.accepts (c : Config) (f : Family) : Bool := c.acceptForeign || c.owner == f

/-- STATUS.ERRCODE's five values (10_state.md R27). Values 5 to 15 of the 4-bit field are reserved and
never produced, so the type has no name for them (DEDUCED, assumption log 20). -/
inductive ErrCode where
  | none
  | unsupportedMethod
  | sizeMismatch
  | checksumMismatch
  | badCommand
  deriving DecidableEq, Repr, Inhabited

/-! The codec primitives (R12, assumption log 5): `count` is the int32 the primitive returns, `outByte`
the byte at each position of the destination window after it ran. Nothing is assumed of them. -/

opaque Config.primACount : List Byte → Nat → Word
opaque Config.primAOutByte : List Byte → Nat → Nat → Byte
opaque Config.primBCount : List Byte → Nat → Word
opaque Config.primBOutByte : List Byte → Nat → Nat → Byte

/-! Free values ("any value", a draw under no law: assumption log 6). The first argument is the
value of the draw counter, the second tells the values of one draw apart. -/

opaque Config.freeWord : Nat → Nat → Word
opaque Config.freeByte : Nat → Nat → Byte
opaque Config.freeMem : Nat → Nat → Byte
opaque Config.freeBool : Nat → Nat → Bool
opaque Config.freeErr : Nat → ErrCode

end Sys2Proof
end

