-- ==== Sys2Proof/Syntax.lean ====
section
/-! DEFINITION. The instructions: one constructor per row of spec/opcode_table.json, and the three
encoded forms they come in (30_encoding.md): the command word CMDW, the block header (METHOD), and
the host bus operation (BUS). -/

namespace Sys2Proof

/-- The header fields beside the method byte (30_encoding.md R90): the operands of the METHOD rows.
The magic is a byte string in address order; the lengths and the checksum are 32-bit patterns. -/
structure Fields where
  magic : List Byte
  clen : Word
  olen : Word
  csum : Word
  deriving DecidableEq, Repr

/-- A parsed header (40_header_parser.md R122). -/
structure Header where
  method : Byte
  fields : Fields
  deriving DecidableEq, Repr

/-- The classes a method byte is decoded to (41_dispatch.md R140). -/
inductive MethodClass where
  | raw
  | a
  | b
  | other
  deriving DecidableEq, Repr

/-- Direction of a host bus operation. -/
inductive Dir where
  | read
  | write
  deriving DecidableEq, Repr

/-- A host access to the register window as it stands on the bus (30_encoding.md R101), before
decoding: any width in bits, any offset from REG_BASE. -/
structure BusAccess where
  dir : Dir
  width : Nat
  off : Nat
  data : Word
  deriving DecidableEq, Repr

/-- The three encoded forms of an instruction (30_encoding.md). -/
inductive Encoded where
  /-- A command word written to CMD (R100). -/
  | cmdw (w : Word)
  /-- The bytes at SRC: a block header, and whatever follows it (R90). -/
  | header (bytes : List Byte)
  /-- A host bus operation (R101). -/
  | bus (a : BusAccess)
  deriving DecidableEq, Repr

/-- Why the decoder rejects an encoding. -/
inductive DecodeError where
  /-- Fewer than HEADER_LENGTH bytes: no header to decode. -/
  | shortHeader
  /-- A bus access whose width is not 32 bits (43_register_access.md R205). -/
  | wrongWidth
  /-- A bus access whose offset is not a multiple of 4 (R205). -/
  | misaligned
  /-- A bus access at offset 0x100 or more (R205). -/
  | outOfWindow
  deriving DecidableEq, Repr

/-- The instructions, in the order of spec/opcode_table.json. -/
inductive Instr where
  /-- CMDW 0x01 (40_header_parser.md R127). -/
  | getOriginalLen
  /-- CMDW 0x02 (41_dispatch.md R145). -/
  | decompress
  /-- CMDW, every other OPCODE (43_register_access.md R203). -/
  | badCommand (opcode : Byte)
  /-- METHOD_CODE_RAW (41_dispatch.md R148). -/
  | methodRaw (f : Fields)
  /-- METHOD_CODE_A (R149). -/
  | methodAlgoA (f : Fields)
  /-- METHOD_CODE_B (R150). -/
  | methodAlgoB (f : Fields)
  /-- Every other method byte (R146). -/
  | methodOther (method : Byte) (f : Fields)
  /-- REG_READ (43_register_access.md R200). -/
  | regRead (off : Byte)
  /-- REG_WRITE to CMD, offset 0x00 (R201). -/
  | regWriteCmd (data : Word)
  /-- REG_WRITE to SRC_ADDR_LO, offset 0x08 (R202). -/
  | regWriteSrcAddrLo (data : Word)
  /-- REG_WRITE to SRC_ADDR_HI, offset 0x0C (R202). -/
  | regWriteSrcAddrHi (data : Word)
  /-- REG_WRITE to DST_ADDR_LO, offset 0x10 (R202). -/
  | regWriteDstAddrLo (data : Word)
  /-- REG_WRITE to DST_ADDR_HI, offset 0x14 (R202). -/
  | regWriteDstAddrHi (data : Word)
  /-- REG_WRITE to DST_OFF, offset 0x18 (R202). -/
  | regWriteDstOff (data : Word)
  /-- REG_WRITE to any other aligned offset: read-only or reserved (R202). -/
  | regWriteIgnored (off : Byte) (data : Word)
  deriving DecidableEq, Repr

end Sys2Proof
end

