-- ==== Sys2Proof/Machine/State.lean ====
section
/-! DEFINITION. The state of the block and of the host memory it works on (10_state.md, 20_memory.md),
the reasons a step stops, and the state after reset. State is plain data. -/

namespace Sys2Proof.Machine

/-- The sequencing state (10_state.md R20): no program counter, only whether a command waits for its
device step. -/
inductive Phase where
  | idle
  | pending
  deriving DecidableEq, Repr

/-- The checksum accumulator's phase (10_state.md R22). -/
inductive CkState where
  | idle
  | resetting
  | accumulating
  | digesting
  deriving DecidableEq, Repr

/-- The checksum engines (42_checksum.md R170). -/
inductive Engine where
  | fast
  | crc
  deriving DecidableEq, Repr

/-- The four 32-bit lanes of the fast hash (42_checksum.md R175). -/
structure Lanes where
  v1 : Word
  v2 : Word
  v3 : Word
  v4 : Word
  deriving DecidableEq, Repr

/-- The checksum accumulator (10_state.md R22): the CRC-32 register, or the fast hash's lanes, byte
count and up to 15 buffered bytes. -/
inductive Acc where
  | crc (c : Word)
  | fast (v : Lanes) (count : Nat) (buf : List Byte)
  deriving DecidableEq, Repr

/-- The reasons of a contract fault (60_exceptions.md R225). -/
inductive ContractFault where
  | srcOutOfBounds
  | dstOutOfBounds
  | addressRange
  | negativeOffset
  | negativeLength
  | overlap
  | busyWrite
  | hostInterference
  deriving DecidableEq, Repr

/-- What set the fault mark (10_state.md R23): a contract fault (60_exceptions.md R226), or a bus
operation that was refused (43_register_access.md R205), with the form that was wrong. -/
inductive FaultCause where
  | contract (r : ContractFault)
  | refused (e : DecodeError)
  deriving DecidableEq, Repr

/-- Why a step stops for good. -/
inductive Fault where
  /-- Raised by the device's turn on a PENDING command that a contract fault has ended (60_exceptions.md
  R226): the spec gives the device no further behaviour there but reset. Safe: the model stops where the
  hardware does something unknown (assumption log 16). -/
  | faulted (reason : ContractFault)
  deriving DecidableEq, Repr

/-- Why a step has no meaning. A bus operation that the spec refuses is no such stop: it is a next state
with the fault mark set (assumption log 2). -/
inductive Refusal where
  /-- An instruction whose meaning is not written. Raised by no arm of exec. Safe. -/
  | notModelled (mnemonic : String)
  deriving DecidableEq, Repr

/-- STATUS (10_state.md R26). Its reserved bits have no storage: they read 0. -/
structure Status where
  busy : Bool
  done : Bool
  err : Bool
  errcode : ErrCode
  lastOp : Byte
  deriving DecidableEq, Repr

/-- A run of byte addresses given to a buffer at launch (20_memory.md R62). -/
structure Region where
  base : Nat
  size : Nat
  deriving DecidableEq, Repr

/-- The destination window of a command (00_scope.md glossary), on unbounded integers (20_memory.md
R73): its base may be negative before the checks of DECOMPRESS. -/
structure Window where
  base : Int
  len : Nat
  deriving DecidableEq, Repr

/-- The bytes of a command in progress (20_memory.md R69, R70): those it reads, and its destination
window. -/
structure Footprint where
  reads : Region
  writes : Window
  deriving DecidableEq, Repr

/-- The contract fault that ended a command in progress, with the bytes of that command. -/
structure CommandFault where
  reason : ContractFault
  footprint : Footprint
  deriving DecidableEq, Repr

/-- One move of the world outside the device, in the order it happens (20_memory.md R75, assumption
log 3). -/
inductive Event where
  /-- The device takes its turn: the device step of a PENDING command (10_state.md R20). -/
  | device
  /-- The host accesses the register window (30_encoding.md R101). -/
  | bus (a : BusAccess)
  /-- The host loads a byte of host memory (20_memory.md R76). -/
  | hostLoad (a : Addr)
  /-- The host stores a byte of host memory (20_memory.md R76). -/
  | hostStore (a : Addr) (b : Byte)
  /-- The reset input is asserted (70_reset_and_hazards.md R250). -/
  | reset
  deriving DecidableEq, Repr

/-- Host memory: (address, byte) pairs. -/
abbrev Memory := List Host.Cell

/-- What a byte that is not listed reads as. DESIGN CHOICE (assumption log 7): the spec says nothing
of a byte the host has not filled. -/
def unlistedByte : Byte := 0

/-- The canonical form of memory: addresses strictly rising, no entry equal to what an unlisted
address reads as. Equal memories are equal lists. -/
abbrev Memory.wf (m : Memory) : Prop :=
  m.Pairwise (fun x y => x.1 < y.1) ∧ ∀ x ∈ m, x.2 ≠ unlistedByte

/-- The number of byte addresses of host memory (20_memory.md R60). -/
def addrSpace : Nat := 2 ^ 64

/-- Every listed byte lies inside the address space. -/
abbrev Memory.inSpace (m : Memory) : Prop := ∀ x ∈ m, x.1 < addrSpace

/-- The state: the block's registers and hidden state (10_state.md), host memory and the launch data
(20_memory.md), and the model's own fields. -/
structure State where
  /-- Sequencing state (R20). -/
  phase : Phase
  /-- The fault mark (R23), with what set it first (assumption log 1, 2). -/
  fault : Option FaultCause
  /-- The accumulator's phase (R22). -/
  ckState : CkState
  /-- The accumulator (R22). -/
  acc : Acc
  /-- STATUS, offset 0x04 (R26). -/
  status : Status
  /-- SRC_ADDR_LO, 0x08 (R28). -/
  srcAddrLo : Word
  /-- SRC_ADDR_HI, 0x0C (R28). -/
  srcAddrHi : Word
  /-- DST_ADDR_LO, 0x10 (R29). -/
  dstAddrLo : Word
  /-- DST_ADDR_HI, 0x14 (R29). -/
  dstAddrHi : Word
  /-- DST_OFF, 0x18 (R30). -/
  dstOff : Word
  /-- RESULT, 0x1C (R31). -/
  result : Word
  /-- HDR_METHOD, 0x20: bits [7:0]; bits [31:8] read 0 (R32). -/
  hdrMethod : Byte
  /-- HDR_CLEN, 0x24 (R33). -/
  hdrClen : Word
  /-- HDR_OLEN, 0x28 (R34). -/
  hdrOlen : Word
  /-- HDR_CSUM, 0x2C (R35). -/
  hdrCsum : Word
  /-- HDR_MAGIC0, 0x50 (R36). -/
  hdrMagic0 : Word
  /-- HDR_MAGIC1, 0x54 (R36). -/
  hdrMagic1 : Word
  /-- HDR_MAGIC2, 0x58 (R36). -/
  hdrMagic2 : Word
  /-- HDR_MAGIC3, 0x5C (R36). -/
  hdrMagic3 : Word
  /-- DIAG_EXPECTED, 0x30 (R37). -/
  diagExpected : Word
  /-- DIAG_ACTUAL, 0x34 (R37). -/
  diagActual : Word
  /-- The build record that CFG0 to CFG3 show (R41 to R43). No step writes it (70_reset_and_hazards.md
  R252, assumption log 4). -/
  cfg : Config
  /-- Host memory (20_memory.md R60). -/
  mem : Memory
  /-- The source buffers: `srcAdmit(a)` (20_memory.md R62), fixed for the run. -/
  srcAdmit : List Region
  /-- The destination buffers: `dstAdmit(a)` (20_memory.md R62), fixed for the run. -/
  dstAdmit : List Region
  /-- The model's own: the contract fault that ended the command in progress, with the bytes that command
  reads and its window, since its registers then hold any value (60_exceptions.md R226, assumption log 23);
  none while no contract fault has. -/
  commandFault : Option CommandFault
  /-- The model's own: the moves of the host and the reset input still to come (assumption log 3). -/
  agenda : List Event
  /-- The model's own: how many draws of free values have been made (assumption log 6). -/
  draws : Nat
  /-- The model's own: the value the last REG_READ returned to the host (assumption log 9). -/
  readData : Word
  /-- The model's own: the byte the last host load returned (assumption log 9). -/
  loadData : Byte
  deriving DecidableEq, Repr

/-- STATUS after reset (10_state.md R26, R47). -/
def Status.atReset : Status :=
  { busy := false, done := false, err := false, errcode := .none, lastOp := 0 }

/-- The accumulator after reset: unspecified by the spec (10_state.md R47). DESIGN CHOICE
(assumption log 8); nothing ever reads it. -/
def Acc.atReset : Acc := .crc 0

/-- The machine right after reset (10_state.md R47), on a given build, memory and launch, with the
model's own fields at their starting values. -/
def State.launch (c : Config) (mem : Memory) (srcAdmit dstAdmit : List Region) (agenda : List Event) : State where
  phase := .idle
  fault := none
  ckState := .idle
  acc := Acc.atReset
  status := Status.atReset
  srcAddrLo := 0
  srcAddrHi := 0
  dstAddrLo := 0
  dstAddrHi := 0
  dstOff := 0
  result := 0
  hdrMethod := 0
  hdrClen := 0
  hdrOlen := 0
  hdrCsum := 0
  hdrMagic0 := 0
  hdrMagic1 := 0
  hdrMagic2 := 0
  hdrMagic3 := 0
  diagExpected := 0
  diagActual := 0
  cfg := c
  mem := mem
  srcAdmit := srcAdmit
  dstAdmit := dstAdmit
  commandFault := none
  agenda := agenda
  draws := 0
  readData := 0
  loadData := 0

/-- The machine right after reset on the standard build, with nothing in memory, nothing admitted and
nothing for the host to do (10_state.md R47, assumption log 4, 21). -/
def State.reset : State := State.launch Config.standard [] [] [] []

end Sys2Proof.Machine
end

