-- ==== Sys2Proof/Machine/Flags.lean ====
section
/-! DEFINITION. The flags: STATUS's fields, how its word is read, and what a CMD write and a completion
do to it (10_state.md R26, R27, R45). Also the words of the read-only configuration registers
(R41 to R43). -/

namespace Sys2Proof.Machine

/-- The 4-bit value of an ERRCODE (10_state.md R27). -/
def errValue : ErrCode → Word
  | .none => 0
  | .unsupportedMethod => 1
  | .sizeMismatch => 2
  | .checksumMismatch => 3
  | .badCommand => 4

/-- A flag as bit 0 of a word. -/
def flagBit (b : Bool) : Word := if b then 1 else 0

/-- STATUS as the host reads it (10_state.md R26): BUSY [0], DONE [1], ERR [2], ERRCODE [7:4],
LAST_OP [15:8], every other bit 0. -/
def statusWord (st : Status) : Word :=
  flagBit st.busy ||| (flagBit st.done <<< 1) ||| (flagBit st.err <<< 2) ||| (errValue st.errcode <<< 4)
    ||| (st.lastOp.setWidth 32 <<< 8)

/-- STATUS after a CMD write (43_register_access.md R201). -/
def statusIssued (op : Byte) : Status :=
  { busy := true, done := false, err := false, errcode := .none, lastOp := op }

/-- STATUS after a completion with a code (41_dispatch.md R155): ERR exactly when the code is not NONE. -/
def statusCompleted (code : ErrCode) (st : Status) : Status :=
  { busy := false, done := true, err := decide (code ≠ .none), errcode := code, lastOp := st.lastOp }

/-- CFG0 (10_state.md R41): MAGIC_LENGTH [4:0], OWNER_FAMILY [8], ACCEPT_FOREIGN_METHOD [9]. -/
def cfg0Word (c : Config) : Word :=
  BitVec.ofNat 32 c.magicLen ||| (flagBit (c.owner == .b) <<< 8) ||| (flagBit c.acceptForeign <<< 9)

/-- CFG1 (10_state.md R42): the three method codes, RAW in [7:0], A in [15:8], B in [23:16]. -/
def cfg1Word (c : Config) : Word :=
  c.codeRaw.setWidth 32 ||| (c.codeA.setWidth 32 <<< 8) ||| (c.codeB.setWidth 32 <<< 16)

/-- CFG2 (10_state.md R43). -/
def cfg2Word (c : Config) : Word := c.fastSeed

/-- CFG3 (10_state.md R43). -/
def cfg3Word (c : Config) : Word := c.fastMask

/-- A register's value by its offset in the window (10_state.md R24): CMD and the reserved offsets read
0 (R25, R44). -/
def regValue (off : Byte) (s : State) : Word :=
  match off.toNat with
  | 0x04 => statusWord s.status
  | 0x08 => s.srcAddrLo
  | 0x0C => s.srcAddrHi
  | 0x10 => s.dstAddrLo
  | 0x14 => s.dstAddrHi
  | 0x18 => s.dstOff
  | 0x1C => s.result
  | 0x20 => s.hdrMethod.setWidth 32
  | 0x24 => s.hdrClen
  | 0x28 => s.hdrOlen
  | 0x2C => s.hdrCsum
  | 0x30 => s.diagExpected
  | 0x34 => s.diagActual
  | 0x38 => cfg0Word s.cfg
  | 0x3C => cfg1Word s.cfg
  | 0x40 => cfg2Word s.cfg
  | 0x44 => cfg3Word s.cfg
  | 0x50 => s.hdrMagic0
  | 0x54 => s.hdrMagic1
  | 0x58 => s.hdrMagic2
  | 0x5C => s.hdrMagic3
  | _ => 0

/-- Issuing a command: the CMD write's effect (43_register_access.md R201). -/
def issueCommand (op : Byte) (s : State) : State :=
  { s with status := statusIssued op, phase := .pending }

/-- `complete(code, result, ...)` of a command that leaves the diagnostic registers (41_dispatch.md
R155). -/
def complete (code : ErrCode) (result : Word) (s : State) : State :=
  { s with result := result, status := statusCompleted code s.status, phase := .idle }

/-- `complete(code, result, expected, actual)` of DECOMPRESS and BAD_COMMAND (41_dispatch.md R155). -/
def completeDiag (code : ErrCode) (result expected actual : Word) (s : State) : State :=
  complete code result { s with diagExpected := expected, diagActual := actual }

end Sys2Proof.Machine
end

