-- ==== Sys2Proof/WellFormed.lean ====
section
/-! DEFINITION. Which instructions are the decoding of something, for a given build, and which build
parameters make a block at all. -/

namespace Sys2Proof

/-- The offsets that have a REG_WRITE row of their own (43_register_access.md R201, R202). -/
def writeOffsets : List Byte := [0x00, 0x08, 0x0C, 0x10, 0x14, 0x18]

/-- Is the method byte none of the codes this build accepts (41_dispatch.md R140, R141)? -/
def Config.rejects (c : Config) (m : Byte) : Bool :=
  m != c.codeRaw && !(m == c.codeA && c.accepts .a) && !(m == c.codeB && c.accepts .b)

/-- The magic field is M bytes long (30_encoding.md R91). -/
def Fields.wf (c : Config) (f : Fields) : Bool := f.magic.length == c.magicLen

/-- A register offset is a multiple of 4 (30_encoding.md R101). -/
def offsetAligned (off : Byte) : Bool := off.toNat % 4 == 0

/-- The operands an encoding can give (30_encoding.md R91, R98 to R101). -/
def Instr.wf (c : Config) : Instr → Bool
  | .getOriginalLen => true
  | .decompress => true
  | .badCommand op => op != 0x01 && op != 0x02
  | .methodRaw f => f.wf c
  | .methodAlgoA f => f.wf c && c.accepts .a
  | .methodAlgoB f => f.wf c && c.accepts .b
  | .methodOther m f => f.wf c && c.rejects m
  | .regRead off => offsetAligned off
  | .regWriteCmd _ => true
  | .regWriteSrcAddrLo _ => true
  | .regWriteSrcAddrHi _ => true
  | .regWriteDstAddrLo _ => true
  | .regWriteDstAddrHi _ => true
  | .regWriteDstOff _ => true
  | .regWriteIgnored off _ => offsetAligned off && !writeOffsets.contains off

/-- A build from raw parameters: none where the spec refuses the build (00_scope.md R6, R8;
20_memory.md R61; 92_eei_decisions.md D2). -/
def Config.build? (magicLen : Nat) (codeRaw codeA codeB : Byte) (owner : Family) (acceptForeign : Bool)
    (fastSeed fastMask : Word) (regBase : Addr) : Option Config :=
  if h : 1 ≤ magicLen ∧ magicLen ≤ 16 ∧ codeRaw ≠ codeA ∧ codeRaw ≠ codeB ∧ codeA ≠ codeB
      ∧ regBase.toNat % 256 = 0 then
    some { magicLen, codeRaw, codeA, codeB, owner, acceptForeign, fastSeed, fastMask, regBase,
           magic_pos := h.1, magic_le := h.2.1, raw_ne_a := h.2.2.1, raw_ne_b := h.2.2.2.1,
           a_ne_b := h.2.2.2.2.1, base_aligned := h.2.2.2.2.2 }
  else none

end Sys2Proof
end

