-- ==== Sys2Proof/Decode.lean ====
section
/-! DEFINITION. The decoder of the three encoded forms (30_encoding.md), total, rejecting by name, and
after it the encoder, written from the same tables. Byte order is decided here once: little-endian
(20_memory.md R65, R66). -/

namespace Sys2Proof

/-- `LE32(b0, b1, b2, b3)`, with b0 the byte at the lowest address (00_scope.md R15). -/
def le32 (b0 b1 b2 b3 : Byte) : Word :=
  b0.setWidth 32 ||| (b1.setWidth 32 <<< 8) ||| (b2.setWidth 32 <<< 16) ||| (b3.setWidth 32 <<< 24)

/-- Byte k of a 32-bit value is bits [8k+7:8k] (20_memory.md R66). -/
def wordByte (w : Word) (k : Nat) : Byte := (w >>> (8 * k)).setWidth 8

/-- The four bytes of a 32-bit value in address order. -/
def wordBytes (w : Word) : List Byte := [wordByte w 0, wordByte w 1, wordByte w 2, wordByte w 3]

/-- Byte i of a byte string, 0 past its end (never asked for past the end by the decoder). -/
def byteAt (bs : List Byte) (i : Nat) : Byte := bs.getD i 0

/-- The little-endian 32-bit field at offset k of a byte string (40_header_parser.md R120). -/
def wordAt (bs : List Byte) (k : Nat) : Word :=
  le32 (byteAt bs k) (byteAt bs (k + 1)) (byteAt bs (k + 2)) (byteAt bs (k + 3))

/-- The dispatch multiplexer's select: the class of a method byte (41_dispatch.md R140). -/
def classify (c : Config) (m : Byte) : MethodClass :=
  if m = c.codeRaw then .raw
  else if m = c.codeA ∧ c.accepts .a = true then .a
  else if m = c.codeB ∧ c.accepts .b = true then .b
  else .other

/-- The METHOD row that a method byte and the other header fields stand for (30_encoding.md R98). -/
def methodInstr (c : Config) (h : Header) : Instr :=
  match classify c h.method with
  | .raw => .methodRaw h.fields
  | .a => .methodAlgoA h.fields
  | .b => .methodAlgoB h.fields
  | .other => .methodOther h.method h.fields

/-- The command a command word starts: [7:0] OPCODE, [31:8] ignored (30_encoding.md R100). -/
def decodeCmd (w : Word) : Instr :=
  let op : Byte := w.setWidth 8
  if op = 0x01 then .getOriginalLen
  else if op = 0x02 then .decompress
  else .badCommand op

/-- The header fields at the start of a byte string (30_encoding.md R90 to R95). -/
def headerOf (c : Config) (bs : List Byte) : Header where
  method := byteAt bs c.magicLen
  fields :=
    { magic := bs.take c.magicLen
      clen := wordAt bs (c.magicLen + 1)
      olen := wordAt bs (c.magicLen + 5)
      csum := wordAt bs (c.magicLen + 9) }

/-- Decoding a block header: the METHOD row and the bytes after the header (the payload). -/
def decodeHeader (c : Config) (bs : List Byte) : Except DecodeError (Instr × List Byte) :=
  if bs.length < c.headerLen then .error .shortHeader
  else .ok (methodInstr c (headerOf c bs), bs.drop c.headerLen)

/-- The REG_WRITE row of an aligned offset (43_register_access.md R201, R202). -/
def writeInstr (off : Byte) (data : Word) : Instr :=
  if off = 0x00 then .regWriteCmd data
  else if off = 0x08 then .regWriteSrcAddrLo data
  else if off = 0x0C then .regWriteSrcAddrHi data
  else if off = 0x10 then .regWriteDstAddrLo data
  else if off = 0x14 then .regWriteDstAddrHi data
  else if off = 0x18 then .regWriteDstOff data
  else .regWriteIgnored off data

/-- Decoding a host bus operation: only aligned 32-bit accesses inside the 256-byte window
(30_encoding.md R101, 43_register_access.md R205). -/
def decodeBus (a : BusAccess) : Except DecodeError Instr :=
  if a.width ≠ 32 then .error .wrongWidth
  else if 0x100 ≤ a.off then .error .outOfWindow
  else if a.off % 4 ≠ 0 then .error .misaligned
  else
    let off : Byte := BitVec.ofNat 8 a.off
    match a.dir with
    | .read => .ok (.regRead off)
    | .write => .ok (writeInstr off a.data)

/-- The decoder of every encoded form. -/
def decode (c : Config) : Encoded → Except DecodeError Instr
  | .cmdw w => .ok (decodeCmd w)
  | .header bs => (decodeHeader c bs).map Prod.fst
  | .bus a => decodeBus a

/-- The bytes of a block header (30_encoding.md R90). -/
def encodeHeader (method : Byte) (f : Fields) : List Byte :=
  f.magic ++ [method] ++ wordBytes f.clen ++ wordBytes f.olen ++ wordBytes f.csum

/-- The bus form of a register read. The bus carries data only for writes (30_encoding.md R101). -/
def busRead (off : Nat) : BusAccess := { dir := .read, width := 32, off := off, data := 0 }

/-- The bus form of a register write (30_encoding.md R101). -/
def busWrite (off : Nat) (data : Word) : BusAccess := { dir := .write, width := 32, off := off, data := data }

/-- The encoding of an instruction on a build. The ignored bits of a command word are written 0. -/
def encode (c : Config) : Instr → Encoded
  | .getOriginalLen => .cmdw 0x00000001
  | .decompress => .cmdw 0x00000002
  | .badCommand op => .cmdw (op.setWidth 32)
  | .methodRaw f => .header (encodeHeader c.codeRaw f)
  | .methodAlgoA f => .header (encodeHeader c.codeA f)
  | .methodAlgoB f => .header (encodeHeader c.codeB f)
  | .methodOther m f => .header (encodeHeader m f)
  | .regRead off => .bus (busRead off.toNat)
  | .regWriteCmd data => .bus (busWrite 0x00 data)
  | .regWriteSrcAddrLo data => .bus (busWrite 0x08 data)
  | .regWriteSrcAddrHi data => .bus (busWrite 0x0C data)
  | .regWriteDstAddrLo data => .bus (busWrite 0x10 data)
  | .regWriteDstAddrHi data => .bus (busWrite 0x14 data)
  | .regWriteDstOff data => .bus (busWrite 0x18 data)
  | .regWriteIgnored off data => .bus (busWrite off.toNat data)

/-- The encoded form meant by a bare number of `nbits` bits of the opcode table, every other operand 0.
The table numbers its three forms over one another, so the number alone does not tell the form
(DESIGN CHOICE, assumption log 12): more than 8 bits is a command word; one of the five argument
offsets is a REG_WRITE of 0 to it; every other byte is a method byte, in a header whose other bytes
are 0. -/
def tableEncoded (c : Config) (nbits w : Nat) : Encoded :=
  if 8 < nbits then .cmdw (BitVec.ofNat 32 w)
  else if w = 0x08 ∨ w = 0x0C ∨ w = 0x10 ∨ w = 0x14 ∨ w = 0x18 then .bus (busWrite w 0)
  else .header (List.replicate c.magicLen 0 ++ BitVec.ofNat 8 w :: List.replicate 12 0)

/-- The instruction read from a word of the opcode table, on the standard build. -/
def decodeTableWord (nbits w : Nat) : Option Instr :=
  (decode Config.standard (tableEncoded Config.standard nbits w)).toOption

end Sys2Proof
end

