-- ==== Sys2Proof/Machine/Ops.lean ====
section
/-! DEFINITION. The named operations over host memory, admission, and the two ways the fault
mark is set: a contract fault and a refused access (20_memory.md, 60_exceptions.md, 43_register_access.md
R205). -/

namespace Sys2Proof.Machine

/-- The byte at an address; an address that is not listed reads as `unlistedByte`. -/
def memRead : Memory → Nat → Byte
  | [], _ => unlistedByte
  | (a', b') :: rest, a => if a = a' then b' else memRead rest a

/-- Storing a byte, keeping the canonical form: the byte an unlisted address reads as is not listed. -/
def memWrite : Memory → Nat → Byte → Memory
  | [], a, b => if b = unlistedByte then [] else [(a, b)]
  | (a', b') :: rest, a, b =>
    if a < a' then
      if b = unlistedByte then (a', b') :: rest else (a, b) :: (a', b') :: rest
    else if a = a' then
      if b = unlistedByte then rest else (a, b) :: rest
    else (a', b') :: memWrite rest a b

/-- `SrcRead(a, n)` and `DstRead(a, n)` once every byte is admitted (00_scope.md R16): the n bytes at
a, a+1, ... in address order. -/
def memReadBytes (m : Memory) (a : Nat) : Nat → List Byte
  | 0 => []
  | n + 1 => memRead m a :: memReadBytes m (a + 1) n

/-- `DstWrite(a, bytes)` once every byte is admitted (00_scope.md R16): bytes at a, a+1, ... -/
def memWriteBytes (m : Memory) (a : Nat) : List Byte → Memory
  | [] => m
  | b :: bs => memWriteBytes (memWrite m a b) (a + 1) bs

/-- Is byte a in one of the admitted regions (20_memory.md R62)? -/
def admits (rs : List Region) (a : Nat) : Bool :=
  rs.any fun r => decide (r.base ≤ a) && decide (a < r.base + r.size)

/-- The admission check of the n bytes from a, in address order (20_memory.md R64, R73): the first
address that fails gives the reason, AddressRange before the reason for a byte that is not admitted. -/
def checkBytes (rs : List Region) (outOfBounds : ContractFault) (a : Nat) : Nat → Option ContractFault
  | 0 => none
  | n + 1 =>
    if addrSpace ≤ a then some .addressRange
    else if admits rs a = false then some outOfBounds
    else checkBytes rs outOfBounds (a + 1) n

/-- The first address of a window that lies in the address space. -/
def Window.lo (w : Window) : Nat := w.base.toNat

/-- One past the last address of a window that lies in the address space. -/
def Window.hi (w : Window) : Nat := min (w.base + (w.len : Int)).toNat addrSpace

/-- Is address a a byte of the window? -/
def Window.covers (w : Window) (a : Nat) : Bool := decide (w.lo ≤ a) && decide (a < w.hi)

/-- The window with no bytes. -/
def Window.empty : Window := { base := 0, len := 0 }

/-- The footprint with no bytes. -/
def Footprint.empty : Footprint := { reads := { base := 0, size := 0 }, writes := Window.empty }

/-- `n` free bytes of draw `d`, for the addresses from a. -/
def freeBytes (d : Nat) (a : Nat) : Nat → List Byte
  | 0 => []
  | n + 1 => Config.freeMem d a :: freeBytes d (a + 1) n

/-- Every byte of the window holds any value: the free bytes of draw `d`. -/
def memHavoc (d : Nat) (w : Window) (m : Memory) : Memory :=
  memWriteBytes m w.lo (freeBytes d w.lo (w.hi - w.lo))

/-- The fault mark once something sets it: the first cause stays (10_state.md R23). -/
def markFault (c : FaultCause) (old : Option FaultCause) : Option FaultCause :=
  match old with
  | some first => some first
  | none => some c

/-- What ended the command in progress, whose bytes are `p`, once the contract fault `r` is taken: the
first to end it stays (assumption log 23). -/
def endCommand (r : ContractFault) (p : Footprint) (old : Option CommandFault) : Option CommandFault :=
  match old with
  | some first => some first
  | none => some { reason := r, footprint := p }

/-- SETTING THE FAULT MARK (10_state.md R23), the one shared entry for every cause: the mark is set, and the
result, header and diagnostic registers hold any value. HDR_METHOD's upper bits stay hard-wired to 0 (R44;
assumption log 1, 2, 6, 20). -/
def setFault (c : FaultCause) (s : State) : State :=
  let d := s.draws
  { s with
    fault := markFault c s.fault
    result := Config.freeWord d 0x1C
    hdrMethod := Config.freeByte d 0x20
    hdrClen := Config.freeWord d 0x24
    hdrOlen := Config.freeWord d 0x28
    hdrCsum := Config.freeWord d 0x2C
    diagExpected := Config.freeWord d 0x30
    diagActual := Config.freeWord d 0x34
    hdrMagic0 := Config.freeWord d 0x50
    hdrMagic1 := Config.freeWord d 0x54
    hdrMagic2 := Config.freeWord d 0x58
    hdrMagic3 := Config.freeWord d 0x5C
    draws := d + 1 }

/-- TAKING A CONTRACT FAULT (60_exceptions.md R226): the mark is set, and the command, whose bytes are `p`,
ends without a completion, so the phase is PENDING and STATUS keeps BUSY = 1. Every register other than CFG0
to CFG3, and every byte of that command's window, holds any value. STATUS's reserved bits stay hard-wired to
0 (10_state.md R44; assumption log 1, 20). -/
def takeContractFault (r : ContractFault) (p : Footprint) (s : State) : State :=
  let d := s.draws
  { setFault (.contract r) s with
    phase := .pending
    commandFault := endCommand r p s.commandFault
    status :=
      { busy := true
        done := Config.freeBool d 0
        err := Config.freeBool d 1
        errcode := Config.freeErr d
        lastOp := Config.freeByte d 0 }
    srcAddrLo := Config.freeWord d 0x08
    srcAddrHi := Config.freeWord d 0x0C
    dstAddrLo := Config.freeWord d 0x10
    dstAddrHi := Config.freeWord d 0x14
    dstOff := Config.freeWord d 0x18
    mem := memHavoc d p.writes s.mem }

/-- What a refused access returns to the host: any value for a read, nothing for a write
(43_register_access.md R205, assumption log 2). -/
def refusedData (dir : Dir) (s : State) : Word :=
  match dir with
  | .read => Config.freeWord s.draws 0x100
  | .write => s.readData

/-- What a refused access leaves in the argument register at `off`, which held `w`: any value in IDLE; while
PENDING the argument registers cannot change (43_register_access.md R201, assumption log 2). -/
def refusedArgument (off : Nat) (w : Word) (s : State) : Word :=
  match s.phase with
  | .idle => Config.freeWord s.draws off
  | .pending => w

/-- REFUSING A BUS OPERATION (43_register_access.md R205): the fault mark is set and the access has no
meaning. What the hardware does is not specified, so the result, header and diagnostic registers hold any
value, and in IDLE the argument registers too. The phase and STATUS stay (10_state.md R20, R26, R45), and so
does host memory, which the device reaches only in a device step (20_memory.md R60): a PENDING command waits
for its device step as before (70_reset_and_hazards.md R258; assumption log 2). -/
def refuseAccess (e : DecodeError) (dir : Dir) (s : State) : State :=
  { setFault (.refused e) s with
    srcAddrLo := refusedArgument 0x08 s.srcAddrLo s
    srcAddrHi := refusedArgument 0x0C s.srcAddrHi s
    dstAddrLo := refusedArgument 0x10 s.dstAddrLo s
    dstAddrHi := refusedArgument 0x14 s.dstAddrHi s
    dstOff := refusedArgument 0x18 s.dstOff s
    readData := refusedData dir s }

/-- THE RESET INPUT (70_reset_and_hazards.md R250, R251): every piece of block state takes its reset
value, which clears the fault mark. Host memory is unchanged, but for the destination window `w` of an
abandoned command, whose bytes hold any value. The build, the launch data and the host's own fields are
not block state. -/
def hardwareReset (w : Window) (s : State) : State :=
  { State.launch s.cfg (memHavoc s.draws w s.mem) s.srcAdmit s.dstAdmit s.agenda with
    draws := s.draws + 1
    readData := s.readData
    loadData := s.loadData }

end Sys2Proof.Machine
end

