-- ==== Sys2Proof/Machine/Operands.lean ====
section
/-! DEFINITION. The operands of the commands: addresses, header fields, the destination window and the
read footprint, with the contract checks on them (30_encoding.md R102, 40_header_parser.md,
41_dispatch.md R143, R147, 20_memory.md R69 to R73). -/

namespace Sys2Proof.Machine

/-- A 64-bit address from its HI and LO registers (30_encoding.md R102). -/
def addrOf (hi lo : Word) : Addr := (hi.setWidth 64 <<< 32) ||| lo.setWidth 64

/-- SRC, the address of header byte 0 (10_state.md R28), as an unbounded number. -/
def srcAddr (s : State) : Nat := (addrOf s.srcAddrHi s.srcAddrLo).toNat

/-- DST, the address of the destination buffer (10_state.md R29), as an unbounded number. -/
def dstAddr (s : State) : Nat := (addrOf s.dstAddrHi s.dstAddrLo).toNat

/-- `s32(DST_OFF)` (10_state.md R30). -/
def dstOffset (s : State) : Int := s.dstOff.toInt

/-- P, where the payload starts (41_dispatch.md R143). -/
def payloadAddr (s : State) : Nat := srcAddr s + s.cfg.headerLen

/-- Wbase, where the destination window starts (41_dispatch.md R143). -/
def windowBase (s : State) : Int := (dstAddr s : Int) + dstOffset s

/-- The destination window for these header fields (20_memory.md R70); a negative original_len leaves
no window. -/
def windowOf (f : Fields) (s : State) : Window :=
  { base := windowBase s, len := f.olen.toInt.toNat }

/-- `readField(S, k)` (40_header_parser.md R120). -/
def readField (s : State) (k : Nat) : Word :=
  le32 (memRead s.mem (srcAddr s + k)) (memRead s.mem (srcAddr s + k + 1))
    (memRead s.mem (srcAddr s + k + 2)) (memRead s.mem (srcAddr s + k + 3))

/-- `CheckHeader(S)` (40_header_parser.md R121): the whole header must be admitted and in range. -/
def checkHeader (s : State) : Option ContractFault :=
  checkBytes s.srcAdmit .srcOutOfBounds (srcAddr s) s.cfg.headerLen

/-- The fields `ParseHeader(S)` extracts once CheckHeader has passed (40_header_parser.md R122). -/
def parseHeader (s : State) : Header where
  method := memRead s.mem (srcAddr s + s.cfg.magicLen)
  fields :=
    { magic := memReadBytes s.mem (srcAddr s) s.cfg.magicLen
      clen := readField s (s.cfg.magicLen + 1)
      olen := readField s (s.cfg.magicLen + 5)
      csum := readField s (s.cfg.magicLen + 9) }

/-- HDR_MAGIC(j): magic bytes 4j to 4j+3, byte i in bits [8(i mod 4)+7 : 8(i mod 4)], positions past
the magic 0 (10_state.md R36). -/
def packMagic (magic : List Byte) (j : Nat) : Word := wordAt magic (4 * j)

/-- Latching the parsed header (40_header_parser.md R123). -/
def latchHeader (h : Header) (s : State) : State :=
  { s with
    hdrMethod := h.method
    hdrClen := h.fields.clen
    hdrOlen := h.fields.olen
    hdrCsum := h.fields.csum
    hdrMagic0 := packMagic h.fields.magic 0
    hdrMagic1 := packMagic h.fields.magic 1
    hdrMagic2 := packMagic h.fields.magic 2
    hdrMagic3 := packMagic h.fields.magic 3 }

/-- L, how many payload bytes a class reads (20_memory.md R69). -/
def payloadLen (cls : MethodClass) (f : Fields) : Nat :=
  match cls with
  | .raw => f.olen.toInt.toNat
  | .a => f.clen.toInt.toNat
  | .b => f.clen.toInt.toNat
  | .other => 0

/-- PF, the read footprint of a DECOMPRESS (20_memory.md R69). -/
def footprintOf (cls : MethodClass) (f : Fields) (s : State) : Region :=
  { base := srcAddr s, size := s.cfg.headerLen + payloadLen cls f }

/-- Does the region of n bytes from a meet region r? -/
def meets (a n : Nat) (r : Region) : Bool :=
  decide (0 < n) && decide (0 < r.size) && decide (a < r.base + r.size) && decide (r.base < a + n)

/-- `CheckDestination(h, off, cls)` (41_dispatch.md R147): the reason of the first check that fails. The
offset is not negative where the window is checked, so no window address is negative. -/
def checkDestination (cls : MethodClass) (f : Fields) (s : State) : Option ContractFault :=
  if dstOffset s < 0 then some .negativeOffset
  else if f.olen.toInt < 0 then some .negativeLength
  else if cls ≠ .raw ∧ f.clen.toInt < 0 then some .negativeLength
  else
    match checkBytes s.dstAdmit .dstOutOfBounds (windowBase s).toNat f.olen.toNat with
    | some r => some r
    | none =>
      match checkBytes s.srcAdmit .srcOutOfBounds (footprintOf cls f s).base (footprintOf cls f s).size with
      | some r => some r
      | none =>
        if meets (windowBase s).toNat f.olen.toNat (footprintOf cls f s) = true then some .overlap else none

/-- The opcode of DECOMPRESS (30_encoding.md R100). -/
def opDecompress : Byte := 0x02

/-- The opcode of GET_ORIGINAL_LEN (30_encoding.md R100). -/
def opGetOriginalLen : Byte := 0x01

/-- The bytes of a GET_ORIGINAL_LEN: it reads the original_len field (20_memory.md R69, assumption log 14)
and writes nothing (R70). -/
def lengthFootprint (s : State) : Footprint :=
  { reads := { base := srcAddr s + s.cfg.magicLen + 5, size := 4 }, writes := Window.empty }

/-- The bytes of a DECOMPRESS of this class and these header fields (20_memory.md R69, R70). -/
def decompressFootprint (cls : MethodClass) (f : Fields) (s : State) : Footprint :=
  { reads := footprintOf cls f s, writes := windowOf f s }

/-- The same, for the header that stands in memory (assumption log 15). -/
def headerFootprint (s : State) : Footprint :=
  decompressFootprint (classify s.cfg (parseHeader s).method) (parseHeader s).fields s

/-- The bytes that the registers give the PENDING command; BAD_COMMAND has none (43_register_access.md
R203). -/
def issuedFootprint (s : State) : Footprint :=
  if s.status.lastOp = opDecompress then headerFootprint s
  else if s.status.lastOp = opGetOriginalLen then lengthFootprint s
  else Footprint.empty

/-- The bytes of the command in progress, none in IDLE. Once a contract fault has ended that command its
registers hold any value, and its bytes are those kept then (assumption log 23). -/
def pendingFootprint (s : State) : Footprint :=
  match s.phase with
  | .idle => Footprint.empty
  | .pending =>
    match s.commandFault with
    | some e => e.footprint
    | none => issuedFootprint s

/-- The bytes the command in progress reads (20_memory.md R76 (d)). -/
def pendingReads (s : State) : Region := (pendingFootprint s).reads

/-- The destination window of the command in progress (20_memory.md R76 (d)). -/
def pendingWindow (s : State) : Window := (pendingFootprint s).writes

/-- Is address a in the region? -/
def Region.covers (r : Region) (a : Nat) : Bool := decide (r.base ≤ a) && decide (a < r.base + r.size)

end Sys2Proof.Machine
end

