-- ==== Sys2Proof/Machine/Bus.lean ====
section
/-! DEFINITION. The BUS rows: host accesses to the register window (43_register_access.md). -/

namespace Sys2Proof.Machine

/-- A register write's effect when no command is in progress; while PENDING a write to any offset is
ContractFault(BusyWrite) (43_register_access.md R202, R206). -/
def whenIdle (s : State) (after : State) : Host.Outcome State Fault Refusal :=
  match s.phase with
  | .idle => .next after
  | .pending => .next (takeContractFault .busyWrite (pendingFootprint s) s)

/-- A draw returned to the host: any value (43_register_access.md R204). -/
def drawRead (s : State) : State :=
  { s with readData := Config.freeWord s.draws 0, draws := s.draws + 1 }

/-- REG_READ (R200): the register's value, but any value for a register other than STATUS while PENDING
(R204). A read changes no register. A misaligned offset is refused, which sets the fault mark (R205). -/
def execRegRead (off : Byte) (s : State) : Host.Outcome State Fault Refusal :=
  if off.toNat % 4 ≠ 0 then .next (refuseAccess .misaligned .read s)
  else if s.phase = .pending ∧ off ≠ 0x04 then .next (drawRead s)
  else .next { s with readData := regValue off s }

/-- REG_WRITE to CMD (R201): starts the command of data[7:0]; data[31:8] is ignored. -/
def execRegWriteCmd (data : Word) (s : State) : Host.Outcome State Fault Refusal :=
  whenIdle s (issueCommand (data.setWidth 8) s)

/-- REG_WRITE to SRC_ADDR_LO (R202). -/
def execRegWriteSrcAddrLo (data : Word) (s : State) : Host.Outcome State Fault Refusal :=
  whenIdle s { s with srcAddrLo := data }

/-- REG_WRITE to SRC_ADDR_HI (R202). -/
def execRegWriteSrcAddrHi (data : Word) (s : State) : Host.Outcome State Fault Refusal :=
  whenIdle s { s with srcAddrHi := data }

/-- REG_WRITE to DST_ADDR_LO (R202). -/
def execRegWriteDstAddrLo (data : Word) (s : State) : Host.Outcome State Fault Refusal :=
  whenIdle s { s with dstAddrLo := data }

/-- REG_WRITE to DST_ADDR_HI (R202). -/
def execRegWriteDstAddrHi (data : Word) (s : State) : Host.Outcome State Fault Refusal :=
  whenIdle s { s with dstAddrHi := data }

/-- REG_WRITE to DST_OFF (R202). -/
def execRegWriteDstOff (data : Word) (s : State) : Host.Outcome State Fault Refusal :=
  whenIdle s { s with dstOff := data }

/-- REG_WRITE to a read-only register or a reserved offset: ignored (R202, 10_state.md R44). A misaligned
offset is refused, which sets the fault mark (R205). -/
def execRegWriteIgnored (off : Byte) (_data : Word) (s : State) : Host.Outcome State Fault Refusal :=
  if off.toNat % 4 ≠ 0 then .next (refuseAccess .misaligned .write s)
  else whenIdle s s

end Sys2Proof.Machine
end

