-- ==== Sys2Proof/Machine/Checksum.lean ====
section
/-! DEFINITION. The checksum verifier's two engines (42_checksum.md): the fast hash (XXH32) and CRC-32 as
functions of a byte string, and the accumulator that the hardware feeds them through (R172, 10_state.md
R22). The algorithms are the spec's own reading of the source (UNVERIFIED, assumption log 17). -/

namespace Sys2Proof.Machine

/-! ## Fast hash (R173 to R177) -/

def prime1 : Word := 0x9E3779B1
def prime2 : Word := 0x85EBCA77
def prime3 : Word := 0xC2B2AE3D
def prime4 : Word := 0x27D4EB2F
def prime5 : Word := 0x165667B1

/-- `round(acc, w)` (R175). -/
def xxhRound (acc w : Word) : Word := (acc + w * prime2).rotateLeft 13 * prime1

/-- The lanes before the first stripe (R175). -/
def lanesInit (seed : Word) : Lanes :=
  { v1 := seed + prime1 + prime2, v2 := seed + prime2, v3 := seed, v4 := seed - prime1 }

/-- One 16-byte stripe, at the start of `x`, into the lanes (R175). -/
def lanesStripe (v : Lanes) (x : List Byte) : Lanes :=
  { v1 := xxhRound v.v1 (wordAt x 0)
    v2 := xxhRound v.v2 (wordAt x 4)
    v3 := xxhRound v.v3 (wordAt x 8)
    v4 := xxhRound v.v4 (wordAt x 12) }

/-- The first n stripes of `x` (R175, the first while loop). -/
def lanesStripes : Nat → Lanes → List Byte → Lanes
  | 0, v, _ => v
  | n + 1, v, x => lanesStripes n (lanesStripe v x) (x.drop 16)

/-- The lanes merged (R175). -/
def lanesMerge (v : Lanes) : Word :=
  v.v1.rotateLeft 1 + v.v2.rotateLeft 7 + v.v3.rotateLeft 12 + v.v4.rotateLeft 18

/-- The first n words of a tail (R175, the second while loop). -/
def tailWords : Nat → Word → List Byte → Word
  | 0, h, _ => h
  | n + 1, h, x => tailWords n ((h + wordAt x 0 * prime3).rotateLeft 17 * prime4) (x.drop 4)

/-- The last bytes of a tail (R175, the third while loop). -/
def tailBytes (h : Word) (x : List Byte) : Word :=
  x.foldl (fun h b => (h + b.setWidth 32 * prime5).rotateLeft 11 * prime1) h

/-- The final mixing (R175). -/
def avalanche (h : Word) : Word :=
  let h := (h ^^^ (h >>> 15)) * prime2
  let h := (h ^^^ (h >>> 13)) * prime3
  h ^^^ (h >>> 16)

/-- From the merged lanes, the length added, over a tail of fewer than 16 bytes (R175). -/
def xxhFinish (h : Word) (tail : List Byte) : Word :=
  avalanche (tailBytes (tailWords (tail.length / 4) h tail) (tail.drop (4 * (tail.length / 4))))

/-- XXH32 (R175). -/
def xxh32 (x : List Byte) (seed : Word) : Word :=
  let n := x.length / 16
  let h := if 16 ≤ x.length then lanesMerge (lanesStripes n (lanesInit seed) x) else seed + prime5
  xxhFinish (h + BitVec.ofNat 32 x.length) (x.drop (16 * n))

/-- FastDigest (R176). -/
def fastDigest (c : Config) (x : List Byte) : Word := xxh32 x c.fastSeed &&& c.fastMask

/-! ## CRC-32 (R178 to R180) -/

/-- The reflected polynomial (R178). -/
def crcPoly : Word := 0xEDB88320

/-- n rounds of the bit loop (R179). -/
def crcBits : Nat → Word → Word
  | 0, c => c
  | n + 1, c => crcBits n (if c &&& 1 = 1 then (c >>> 1) ^^^ crcPoly else c >>> 1)

/-- One byte into the CRC register (R179). -/
def crcByte (c : Word) (b : Byte) : Word := crcBits 8 (c ^^^ b.setWidth 32)

/-- The initial register, and the final exclusive or (R178). -/
def crcInit : Word := 0xFFFFFFFF

/-- CRC32 (R179). -/
def crc32 (x : List Byte) : Word := x.foldl crcByte crcInit ^^^ 0xFFFFFFFF

/-! ## The engines (R170, R171) -/

/-- The engine of the family that owns the instance (41_dispatch.md R144). -/
def ownerEngine (c : Config) : Engine :=
  match c.owner with
  | .a => .fast
  | .b => .crc

/-- The engine paired with a class (41_dispatch.md R144, R171); METHOD_OTHER has none. -/
def engineOf (c : Config) : MethodClass → Option Engine
  | .raw => some (ownerEngine c)
  | .a => some .fast
  | .b => some .crc
  | .other => none

/-- `Digest(engine, x)` (R171). -/
def digest (c : Config) : Engine → List Byte → Word
  | .fast, x => fastDigest c x
  | .crc, x => crc32 x

/-! ## The accumulator (10_state.md R22, R172) -/

/-- reset: the CRC initial register, or the fast hash's lanes from FAST_SEED (R177, R180). -/
def accReset (c : Config) : Engine → Acc
  | .fast => .fast (lanesInit c.fastSeed) 0 []
  | .crc => .crc crcInit

/-- update with one byte: the fast hash takes a stripe into its lanes at every sixteenth byte. -/
def accByte : Acc → Byte → Acc
  | .crc c, b => .crc (crcByte c b)
  | .fast v n buf, b =>
    if buf.length + 1 = 16 then .fast (lanesStripe v (buf ++ [b])) (n + 1) []
    else .fast v (n + 1) (buf ++ [b])

/-- update with a chunk, in address order (R172, R181). -/
def accUpdate (acc : Acc) (bs : List Byte) : Acc := bs.foldl accByte acc

/-- digest: the value of the bytes taken in since the reset (R172). Before the first stripe, lane 3 still
holds the seed. -/
def accDigest (c : Config) : Acc → Word
  | .crc r => r ^^^ 0xFFFFFFFF
  | .fast v n buf =>
    let h := if 16 ≤ n then lanesMerge v else v.v3 + prime5
    xxhFinish (h + BitVec.ofNat 32 n) buf &&& c.fastMask

/-- The accumulator after one command's checksum: reset first, then fed the window, and idle again at the
step's end (10_state.md R22, 42_checksum.md R172, R177). -/
def runAccumulator (e : Engine) (window : List Byte) (s : State) : State :=
  { s with ckState := .idle, acc := accUpdate (accReset s.cfg e) window }

end Sys2Proof.Machine
end

