-- ==== Sys2Proof/Machine/Method.lean ====
section
/-! DEFINITION. The METHOD rows: the paths of the dispatch multiplexer (41_dispatch.md R146 to R151).
Their operands are the header fields; they act on the state in which DECOMPRESS has latched the header. -/

namespace Sys2Proof.Machine

/-- A primitive's result (00_scope.md R12): the count it returns, and the window's content after it,
which is `cap` bytes long. -/
structure PrimResult where
  count : Word
  out : List Byte
  deriving DecidableEq, Repr

/-- PrimA (00_scope.md R12, assumption log 5). -/
def primA (payload : List Byte) (cap : Nat) : PrimResult :=
  { count := Config.primACount payload cap
    out := (List.range cap).map (Config.primAOutByte payload cap) }

/-- PrimB (00_scope.md R12, assumption log 5). -/
def primB (payload : List Byte) (cap : Nat) : PrimResult :=
  { count := Config.primBCount payload cap
    out := (List.range cap).map (Config.primBOutByte payload cap) }

/-- The destination window's bytes, read back (20_memory.md R71). -/
def readWindow (f : Fields) (s : State) : List Byte :=
  memReadBytes s.mem (windowBase s).toNat f.olen.toNat

/-- Writing the destination window (20_memory.md R70). -/
def writeWindow (bytes : List Byte) (s : State) : State :=
  { s with mem := memWriteBytes s.mem (windowBase s).toNat bytes }

/-- The `n` payload bytes (41_dispatch.md R143). -/
def readPayload (n : Nat) (s : State) : List Byte := memReadBytes s.mem (payloadAddr s) n

/-- The checksum step and the end of DECOMPRESS (41_dispatch.md R153, R154; 42_checksum.md R183, R184):
the digest of the window read back is compared with the stored checksum, all 32 bits. -/
def verify (e : Engine) (f : Fields) (s : State) : State :=
  let window := readWindow f s
  let d := digest s.cfg e window
  let s := runAccumulator e window s
  if d = f.csum then completeDiag .none f.olen f.csum d s
  else completeDiag .checksumMismatch 0 f.csum d s

/-- The contract checks, and what follows when they pass (41_dispatch.md R147). -/
def whenDestinationOk (cls : MethodClass) (f : Fields) (s : State) (after : State) :
    Host.Outcome State Fault Refusal :=
  match checkDestination cls f s with
  | some r => .next (takeContractFault r (decompressFootprint cls f s) s)
  | none => .next after

/-- What a primitive's result leads to: its output in the window, the size check, then the checksum
(41_dispatch.md R149 to R151). -/
def finishPrim (r : PrimResult) (e : Engine) (f : Fields) (s : State) : State :=
  let s := writeWindow r.out s
  if r.count = f.olen then verify e f s
  else completeDiag .sizeMismatch 0 f.olen r.count s

/-- METHOD_RAW (R148): original_len payload bytes to the window, verbatim; compressed_len plays no part. -/
def execMethodRaw (f : Fields) (s : State) : Host.Outcome State Fault Refusal :=
  whenDestinationOk .raw f s
    (verify (ownerEngine s.cfg) f (writeWindow (readPayload f.olen.toNat s) s))

/-- METHOD_ALGO_A (R149): PrimA, the size check, the fast hash. -/
def execMethodAlgoA (f : Fields) (s : State) : Host.Outcome State Fault Refusal :=
  whenDestinationOk .a f s
    (finishPrim (primA (readPayload f.clen.toNat s) f.olen.toNat) .fast f s)

/-- METHOD_ALGO_B (R150): PrimB, the size check, CRC-32. -/
def execMethodAlgoB (f : Fields) (s : State) : Host.Outcome State Fault Refusal :=
  whenDestinationOk .b f s
    (finishPrim (primB (readPayload f.clen.toNat s) f.olen.toNat) .crc f s)

/-- METHOD_OTHER (R146): UNSUPPORTED_METHOD at once, with the method byte for diagnostics; nothing else
of the header is looked at. -/
def execMethodOther (method : Byte) (_f : Fields) (s : State) : Host.Outcome State Fault Refusal :=
  .next (completeDiag .unsupportedMethod 0 0 (method.setWidth 32) s)

end Sys2Proof.Machine
end

