-- ==== Sys2Proof/Machine/Command.lean ====
section
/-! DEFINITION. The CMDW rows: the device step of a PENDING command (40_header_parser.md R127,
41_dispatch.md R145, 43_register_access.md R203). -/

namespace Sys2Proof.Machine

/-- GET_ORIGINAL_LEN (40_header_parser.md R127): the header is admitted as a whole, only the original_len
field is read, and it is not validated. -/
def execGetOriginalLen (s : State) : Host.Outcome State Fault Refusal :=
  match checkHeader s with
  | some r => .next (takeContractFault r (lengthFootprint s) s)
  | none =>
    let olen := readField s (s.cfg.magicLen + 5)
    .next (complete .none olen { s with hdrOlen := olen })

/-- The dispatch on the method byte (41_dispatch.md R140, R142). -/
def dispatchMethod (h : Header) (s : State) : Host.Outcome State Fault Refusal :=
  match classify s.cfg h.method with
  | .raw => execMethodRaw h.fields s
  | .a => execMethodAlgoA h.fields s
  | .b => execMethodAlgoB h.fields s
  | .other => execMethodOther h.method h.fields s

/-- DECOMPRESS (41_dispatch.md R145): parse the header, latch it, dispatch on its method byte. -/
def execDecompress (s : State) : Host.Outcome State Fault Refusal :=
  match checkHeader s with
  | some r => .next (takeContractFault r (headerFootprint s) s)
  | none => dispatchMethod (parseHeader s) (latchHeader (parseHeader s) s)

/-- BAD_COMMAND (43_register_access.md R203): no memory is read, the OPCODE goes to DIAG_ACTUAL. -/
def execBadCommand (opcode : Byte) (s : State) : Host.Outcome State Fault Refusal :=
  .next (completeDiag .badCommand 0 0 (opcode.setWidth 32) s)

end Sys2Proof.Machine
end

