-- ==== Sys2Proof/Machine/Dispatch.lean ====
section
/-! DEFINITION. The dispatch of the fifteen instructions to their meanings. -/

namespace Sys2Proof.Machine

def exec (i : Instr) (s : State) : Host.Outcome State Fault Refusal :=
  match i with
  | .getOriginalLen => Sys2Proof.Machine.execGetOriginalLen s
  | .decompress => Sys2Proof.Machine.execDecompress s
  | .badCommand opcode => Sys2Proof.Machine.execBadCommand opcode s
  | .methodRaw f => Sys2Proof.Machine.execMethodRaw f s
  | .methodAlgoA f => Sys2Proof.Machine.execMethodAlgoA f s
  | .methodAlgoB f => Sys2Proof.Machine.execMethodAlgoB f s
  | .methodOther method f => Sys2Proof.Machine.execMethodOther method f s
  | .regRead off => Sys2Proof.Machine.execRegRead off s
  | .regWriteCmd data => Sys2Proof.Machine.execRegWriteCmd data s
  | .regWriteSrcAddrLo data => Sys2Proof.Machine.execRegWriteSrcAddrLo data s
  | .regWriteSrcAddrHi data => Sys2Proof.Machine.execRegWriteSrcAddrHi data s
  | .regWriteDstAddrLo data => Sys2Proof.Machine.execRegWriteDstAddrLo data s
  | .regWriteDstAddrHi data => Sys2Proof.Machine.execRegWriteDstAddrHi data s
  | .regWriteDstOff data => Sys2Proof.Machine.execRegWriteDstOff data s
  | .regWriteIgnored off data => Sys2Proof.Machine.execRegWriteIgnored off data s

end Sys2Proof.Machine
end

