-- ==== Sys2Proof/Machine/Fetch.lean ====
section
/-! DEFINITION. What happens next: the outside's next move, or the device's turn (20_memory.md R75, R76;
70_reset_and_hazards.md R250, R251, R258). The block fetches no instructions (R79): a command comes from
STATUS.LAST_OP, a bus instruction from the bus. -/

namespace Sys2Proof.Machine

/-- The host loads a byte of host memory (20_memory.md R76): the byte that stands there, but a draw for
a byte of the destination window while PENDING. -/
def hostLoad (a : Addr) (s : State) : Host.Outcome State Fault Refusal :=
  if (pendingWindow s).covers a.toNat = true then
    .next { s with loadData := Config.freeMem s.draws a.toNat, draws := s.draws + 1 }
  else .next { s with loadData := memRead s.mem a.toNat }

/-- The host stores a byte of host memory (20_memory.md R76): ContractFault(HostInterference) on a byte
that the command in progress reads or of its window, whatever the fault mark. The byte of a store that
interferes holds any value: no rule says whether it lands (assumption log 16). -/
def hostStore (a : Addr) (b : Byte) (s : State) : Host.Outcome State Fault Refusal :=
  if (pendingReads s).covers a.toNat = true ∨ (pendingWindow s).covers a.toNat = true then
    .next (takeContractFault .hostInterference (pendingFootprint s)
      { s with mem := memWrite s.mem a.toNat (Config.freeMem s.draws a.toNat) })
  else .next { s with mem := memWrite s.mem a.toNat b }

/-- What a step is about to do: run an instruction, or end with an outcome that is no instruction's. -/
inductive Fetched where
  | run (i : Instr) (s : State)
  | done (o : Host.Outcome State Fault Refusal)

/-- The device's turn (10_state.md R20): the command of a PENDING state, decoded from LAST_OP; nothing in
IDLE, where the block waits for a CMD write (R250); a stop on a command that a contract fault has
ended (60_exceptions.md R226). -/
def deviceTurn (s : State) : Fetched :=
  match s.phase with
  | .idle => .done (.next s)
  | .pending =>
    match s.commandFault with
    | some e => .done (.fault (.faulted e.reason))
    | none => .run (decodeCmd (s.status.lastOp.setWidth 32)) s

/-- Taking the first move off the agenda. -/
def popMove (s : State) : State := { s with agenda := s.agenda.tail }

/-- The next move. With nothing left on the agenda the device has its turn (assumption log 3). -/
def fetch (s : State) : Fetched :=
  match s.agenda with
  | [] => deviceTurn s
  | .device :: _ => deviceTurn (popMove s)
  | .bus a :: _ =>
    match decodeBus a with
    | .ok i => .run i (popMove s)
    | .error e => .done (.next (refuseAccess e a.dir (popMove s)))
  | .hostLoad a :: _ => .done (hostLoad a (popMove s))
  | .hostStore a b :: _ => .done (hostStore a b (popMove s))
  | .reset :: _ => .done (.next (hardwareReset (pendingWindow s) (popMove s)))

/-- Placing an encoded instruction where the next step takes it from (assumption log 13): a bus operation
as the host's next move; a command word as the PENDING command; a block header at SRC, admitted, with
DECOMPRESS pending. -/
def placeEncoded (e : Encoded) (s : State) : State :=
  match e with
  | .bus a => { s with agenda := .bus a :: s.agenda }
  | .cmdw w => { issueCommand (w.setWidth 8) s with agenda := .device :: s.agenda }
  | .header bs =>
    { issueCommand opDecompress s with
      mem := memWriteBytes s.mem (srcAddr s) bs
      srcAdmit := { base := srcAddr s, size := bs.length } :: s.srcAdmit
      agenda := .device :: s.agenda }

end Sys2Proof.Machine
end

