-- ==== Sys2Proof/Machine/Step.lean ====
section
/-! DEFINITION. One step of the machine, and placing an instruction for the next step to run. -/

namespace Sys2Proof.Machine

/-- One step: the next move of the host, the reset input or the device. -/
def step (s : State) : Host.Outcome State Fault Refusal :=
  match fetch s with
  | .run i s' => exec i s'
  | .done o => o

/-- `s` with the instruction of an opcode-table word placed so that the very next step runs it
(assumption log 12, 13). -/
def State.withFetchWord (s : State) (nbits w : Nat) : State :=
  placeEncoded (tableEncoded s.cfg nbits w) s

end Sys2Proof.Machine
end

