-- ==== Sys2Proof/Safety.lean ====
section
/-! DEFINITION. What counts as a safe run, in the terms the claims use: the launch conditions a command
needs (the source's preconditions), the invariant of the block, and what a contract fault leaves. -/

namespace Sys2Proof.Machine

/-! ## The preconditions of a command -/

/-- The byte i places after `base` is in range and belongs to an admitted region (20_memory.md R64, R73). -/
abbrev ByteReady (rs : List Region) (base i : Nat) : Prop :=
  base + i < addrSpace ∧ admits rs (base + i) = true

/-- The whole header is in range and admitted (40_header_parser.md R121). -/
abbrev HeaderReady (s : State) : Prop :=
  ∀ i < s.cfg.headerLen, ByteReady s.srcAdmit (srcAddr s) i

/-- Every window byte is in range and admitted (41_dispatch.md R147). -/
abbrev WindowReady (f : Fields) (s : State) : Prop :=
  ∀ i < f.olen.toNat, ByteReady s.dstAdmit (windowBase s).toNat i

/-- Every byte of the read footprint is in range and admitted (41_dispatch.md R147, 20_memory.md R69). -/
abbrev FootprintReady (cls : MethodClass) (f : Fields) (s : State) : Prop :=
  ∀ i < s.cfg.headerLen + payloadLen cls f, ByteReady s.srcAdmit (srcAddr s) i

/-- The window has no byte in common with the read footprint (20_memory.md R72). -/
abbrev WindowApart (cls : MethodClass) (f : Fields) (s : State) : Prop :=
  f.olen.toNat = 0 ∨ (windowBase s).toNat + f.olen.toNat ≤ srcAddr s
    ∨ srcAddr s + (s.cfg.headerLen + payloadLen cls f) ≤ (windowBase s).toNat

/-- The offset and the lengths are not negative (41_dispatch.md R147). -/
abbrev LengthsReady (cls : MethodClass) (f : Fields) (s : State) : Prop :=
  0 ≤ dstOffset s ∧ 0 ≤ f.olen.toInt ∧ (cls ≠ .raw → 0 ≤ f.clen.toInt)

/-- Every contract check of a DECOMPRESS of a supported class passes (41_dispatch.md R147). -/
abbrev PathReady (cls : MethodClass) (f : Fields) (s : State) : Prop :=
  LengthsReady cls f s ∧ WindowReady f s ∧ FootprintReady cls f s ∧ WindowApart cls f s

/-! ## What stays the same -/

/-- The argument registers are unchanged (10_state.md R28 to R30). -/
structure SameArguments (s t : State) : Prop where
  srcAddrLo : t.srcAddrLo = s.srcAddrLo
  srcAddrHi : t.srcAddrHi = s.srcAddrHi
  dstAddrLo : t.dstAddrLo = s.dstAddrLo
  dstAddrHi : t.dstAddrHi = s.dstAddrHi
  dstOff : t.dstOff = s.dstOff

/-- The header registers are unchanged (10_state.md R32 to R36). -/
structure SameHeaderRegs (s t : State) : Prop where
  hdrMethod : t.hdrMethod = s.hdrMethod
  hdrClen : t.hdrClen = s.hdrClen
  hdrOlen : t.hdrOlen = s.hdrOlen
  hdrCsum : t.hdrCsum = s.hdrCsum
  hdrMagic0 : t.hdrMagic0 = s.hdrMagic0
  hdrMagic1 : t.hdrMagic1 = s.hdrMagic1
  hdrMagic2 : t.hdrMagic2 = s.hdrMagic2
  hdrMagic3 : t.hdrMagic3 = s.hdrMagic3

/-- The build and the launch data are unchanged (70_reset_and_hazards.md R252, 20_memory.md R62). -/
structure SameLaunch (s t : State) : Prop where
  cfg : t.cfg = s.cfg
  srcAdmit : t.srcAdmit = s.srcAdmit
  dstAdmit : t.dstAdmit = s.dstAdmit

/-- What belongs to the host is unchanged: its moves to come and what it has read. -/
structure SameHost (s t : State) : Prop where
  agenda : t.agenda = s.agenda
  readData : t.readData = s.readData
  loadData : t.loadData = s.loadData

/-- Every byte outside a window reads as before (20_memory.md R70). -/
def SameOutside (w : Window) (s t : State) : Prop :=
  ∀ a, w.covers a = false → memRead t.mem a = memRead s.mem a

/-- The header registers hold a parsed header (40_header_parser.md R123). -/
structure Latched (h : Header) (t : State) : Prop where
  hdrMethod : t.hdrMethod = h.method
  hdrClen : t.hdrClen = h.fields.clen
  hdrOlen : t.hdrOlen = h.fields.olen
  hdrCsum : t.hdrCsum = h.fields.csum
  hdrMagic0 : t.hdrMagic0 = packMagic h.fields.magic 0
  hdrMagic1 : t.hdrMagic1 = packMagic h.fields.magic 1
  hdrMagic2 : t.hdrMagic2 = packMagic h.fields.magic 2
  hdrMagic3 : t.hdrMagic3 = packMagic h.fields.magic 3

/-- The registers after a completion with DIAG (41_dispatch.md R155, R156), from a state `s`. -/
structure Completed (code : ErrCode) (result expected actual : Word) (s t : State) : Prop where
  phase : t.phase = .idle
  status : t.status = statusCompleted code s.status
  result : t.result = result
  diagExpected : t.diagExpected = expected
  diagActual : t.diagActual = actual

/-! ## What a path leaves -/

/-- The destination window of `s` holds these bytes in `t` (41_dispatch.md R157). -/
def WindowHolds (bytes : List Byte) (f : Fields) (s t : State) : Prop :=
  memReadBytes t.mem (windowBase s).toNat f.olen.toNat = bytes

/-- The end of a command whose decode wrote `bytes`: NONE when their digest equals the stored checksum,
CHECKSUM_MISMATCH otherwise (42_checksum.md R183, R184; 41_dispatch.md R154, R156). -/
def ChecksumResult (e : Engine) (bytes : List Byte) (f : Fields) (s t : State) : Prop :=
  (digest s.cfg e bytes = f.csum → Completed .none f.olen f.csum f.csum s t) ∧
    (digest s.cfg e bytes ≠ f.csum → Completed .checksumMismatch 0 f.csum (digest s.cfg e bytes) s t)

/-- What the RAW path leaves (41_dispatch.md R148). -/
def RawResult (f : Fields) (s t : State) : Prop :=
  WindowHolds (readPayload f.olen.toNat s) f s t ∧
    ChecksumResult (ownerEngine s.cfg) (readPayload f.olen.toNat s) f s t

/-- What a codec path leaves, given its primitive's result (41_dispatch.md R149 to R151): after a wrong
count the checksum is not computed, so the accumulator is as it was. -/
def CodecResult (r : PrimResult) (e : Engine) (f : Fields) (s t : State) : Prop :=
  WindowHolds r.out f s t ∧
    (r.count ≠ f.olen →
      Completed .sizeMismatch 0 f.olen r.count s t ∧ t.acc = s.acc ∧ t.ckState = s.ckState) ∧
    (r.count = f.olen → ChecksumResult e r.out f s t)

/-- What a DECOMPRESS whose contract holds leaves, by the class of its method byte (41_dispatch.md R145). -/
def MethodResult (h : Header) (s t : State) : Prop :=
  match classify s.cfg h.method with
  | .raw => RawResult h.fields s t
  | .a => CodecResult (primA (readPayload h.fields.clen.toNat s) h.fields.olen.toNat) .fast h.fields s t
  | .b => CodecResult (primB (readPayload h.fields.clen.toNat s) h.fields.olen.toNat) .crc h.fields s t
  | .other => t.mem = s.mem ∧ Completed .unsupportedMethod 0 0 (h.method.setWidth 32) s t

/-- The window an instruction may store to, computed on the state it starts in (20_memory.md R70): the
destination window for DECOMPRESS and its paths, none for the others, but for the window a register write
leaves with any value when it is a BusyWrite (60_exceptions.md R226). A refused access stores nothing
(assumption log 2). -/
def storeWindow (i : Instr) (s : State) : Window :=
  match i with
  | .getOriginalLen => Window.empty
  | .decompress => windowOf (parseHeader s).fields s
  | .badCommand _ => Window.empty
  | .methodRaw f => windowOf f s
  | .methodAlgoA f => windowOf f s
  | .methodAlgoB f => windowOf f s
  | .methodOther _ _ => Window.empty
  | .regRead _ => Window.empty
  | .regWriteCmd _ => pendingWindow s
  | .regWriteSrcAddrLo _ => pendingWindow s
  | .regWriteSrcAddrHi _ => pendingWindow s
  | .regWriteDstAddrLo _ => pendingWindow s
  | .regWriteDstAddrHi _ => pendingWindow s
  | .regWriteDstOff _ => pendingWindow s
  | .regWriteIgnored off _ => if offsetAligned off = true then pendingWindow s else Window.empty

/-- The register writes. -/
def isRegWrite : Instr → Bool
  | .regWriteCmd _ => true
  | .regWriteSrcAddrLo _ => true
  | .regWriteSrcAddrHi _ => true
  | .regWriteDstAddrLo _ => true
  | .regWriteDstAddrHi _ => true
  | .regWriteDstOff _ => true
  | .regWriteIgnored _ _ => true
  | .getOriginalLen => false
  | .decompress => false
  | .badCommand _ => false
  | .methodRaw _ => false
  | .methodAlgoA _ => false
  | .methodAlgoB _ => false
  | .methodOther _ _ => false
  | .regRead _ => false

/-- The device moves next: the agenda says so, or the host has nothing left to do. -/
def DeviceMoves (s : State) : Prop := s.agenda = [] ∨ ∃ rest, s.agenda = .device :: rest

/-- Two states that give DECOMPRESS the same operands: the same build, arguments, memory and launch, and
the same opcode in LAST_OP. Everything an earlier command left may differ. -/
structure AgreeOnInputs (s s' : State) : Prop where
  launch : SameLaunch s s'
  arguments : SameArguments s s'
  mem : s'.mem = s.mem
  lastOp : s'.status.lastOp = s.status.lastOp

/-- Two states with the same outcome of a command: registers, phase and memory. -/
structure SameOutcome (s s' : State) : Prop where
  phase : s'.phase = s.phase
  status : s'.status = s.status
  result : s'.result = s.result
  diagExpected : s'.diagExpected = s.diagExpected
  diagActual : s'.diagActual = s.diagActual
  header : SameHeaderRegs s s'
  mem : s'.mem = s.mem

/-! ## Contract faults and refused accesses -/

/-- What a contract fault leaves that the spec fixes (60_exceptions.md R226): the mark (the first reason
stays), the end of the command without a completion, BUSY and the phase, the build and the launch data,
what belongs to the host, and every byte outside the command's window `w`. -/
structure TakesContractFault (r : ContractFault) (w : Window) (s t : State) : Prop where
  mark : t.fault = some (s.fault.getD (.contract r))
  ended : ∃ e, t.commandFault = some e ∧
    (s.commandFault = none → e.reason = r ∧ e.footprint.writes = w)
  busy : t.status.busy = true
  phase : t.phase = .pending
  launch : SameLaunch s t
  host : SameHost s t
  memory : SameOutside w s t

/-- What a refused access leaves that the model fixes (43_register_access.md R205, assumption log 2): the
mark (the first cause stays), the phase and STATUS, the arguments of a PENDING command, what a contract fault
ended, memory, the accumulator, the build and the launch data, and what belongs to the host (but what a
refused read returns). -/
structure RefusesAccess (e : DecodeError) (dir : Dir) (s t : State) : Prop where
  mark : t.fault = some (s.fault.getD (.refused e))
  phase : t.phase = s.phase
  status : t.status = s.status
  arguments : s.phase = .pending → SameArguments s t
  commandFault : t.commandFault = s.commandFault
  memory : t.mem = s.mem
  acc : t.acc = s.acc
  ckState : t.ckState = s.ckState
  launch : SameLaunch s t
  agenda : t.agenda = s.agenda
  loadData : t.loadData = s.loadData
  readData : dir = .write → t.readData = s.readData

/-! ## The invariant -/

/-- STATUS's own laws (10_state.md R26), at a step boundary. -/
structure StatusOk (st : Status) : Prop where
  busy_clear : st.busy = true → st.done = false ∧ st.err = false ∧ st.errcode = .none
  done_not_busy : st.done = true → st.busy = false
  err_iff : st.err = true ↔ st.done = true ∧ st.errcode ≠ .none

/-- Byte i of the HDR_MAGIC registers (10_state.md R36). -/
def magicByte (s : State) (i : Nat) : Byte :=
  wordByte ([s.hdrMagic0, s.hdrMagic1, s.hdrMagic2, s.hdrMagic3].getD (i / 4) 0) (i % 4)

/-- What every step keeps. STATUS's laws hold until a contract fault (60_exceptions.md R226); those of the
other registers while the fault mark is clear: once it is set they hold any value. -/
structure BlockInv (s : State) : Prop where
  /-- Memory is in canonical form. -/
  memory : s.mem.wf
  /-- Memory lies in the address space (20_memory.md R60). -/
  inSpace : s.mem.inSpace
  /-- The accumulator is idle (10_state.md R22). -/
  accumulator : s.ckState = .idle
  /-- BUSY is 1 exactly while PENDING (10_state.md R26). -/
  busy : s.status.busy = true ↔ s.phase = .pending
  /-- A contract fault ends its command without a completion (60_exceptions.md R226). -/
  faulted : ∀ r, s.fault = some (.contract r) → s.commandFault ≠ none
  /-- A command that a contract fault has ended is PENDING until reset, and the mark is set. -/
  ended : s.commandFault ≠ none → s.phase = .pending ∧ s.fault ≠ none
  /-- STATUS obeys its laws (10_state.md R26). -/
  status : s.commandFault = none → StatusOk s.status
  /-- RESULT is 0 after an error completion (10_state.md R31). -/
  result : s.fault = none → s.status.errcode ≠ .none → s.result = 0
  /-- The magic positions past M read 0 (10_state.md R36). -/
  magic : s.fault = none → ∀ i, s.cfg.magicLen ≤ i → i < 16 → magicByte s i = 0

/-- A state no contract violation and no refused access has reached: what a claim about a run wants to know of its end
(00_scope.md R17). -/
def Safe (s : State) : Prop := s.fault = none

/-- The launch conditions a platform owes (20_memory.md R61): no admitted byte lies in the register
window. -/
def LaunchOk (s : State) : Prop :=
  ∀ a, admits s.srcAdmit a = true ∨ admits s.dstAdmit a = true →
    a < s.cfg.regBase.toNat ∨ s.cfg.regBase.toNat + 256 ≤ a

end Sys2Proof.Machine
end

