-- ==== Sys2Proof/Certificates/Slice0/Obligations.lean ====
section
/-! DEFINITION. The statements about the block, from the numbered rules of spec/. They say what an
instruction or the machine does, over every state, every build and every pair of codec primitives. -/

open Sys2Proof Sys2Proof.Machine

/-! ## Encoding -/

/-- 30_encoding.md R98, R100, R101: no bit of an encoding is dropped. On every build, decoding the
encoding of a well-formed instruction gives it back, with every operand. -/
def Obligations.DecodeInvertsEncode : Prop :=
  ∀ (c : Config) (i : Instr), i.wf c = true → decode c (encode c i) = .ok i

/-- 30_encoding.md R90: a header has one reading. Encoding the instruction that H bytes decode to gives
those bytes. -/
def Obligations.EncodeInvertsHeaderDecode : Prop :=
  ∀ (c : Config) (bs : List Byte) (i : Instr), bs.length = c.headerLen →
    decode c (.header bs) = .ok i → encode c i = .header bs

/-- 30_encoding.md R104 (the spec's 37-byte block), R100, R101: words written out from the spec decode to
the instructions they stand for. -/
def Obligations.SpecWordsDecode : Prop :=
  decode Config.standard (.header
      [0x5A, 0x53, 0x54, 0x44, 0x42, 0x6C, 0x6F, 0x63, 0x6B, 0x00, 0x0F, 0x00, 0x00, 0x00, 0x0F, 0x00,
       0x00, 0x00, 0x0F, 0x76, 0x51, 0xE4, 0x48, 0x65, 0x6C, 0x6C, 0x6F, 0x20, 0x43, 0x65, 0x6C, 0x65,
       0x62, 0x6F, 0x72, 0x6E, 0x21]) =
    .ok (.methodRaw
      { magic := [0x5A, 0x53, 0x54, 0x44, 0x42, 0x6C, 0x6F, 0x63, 0x6B]
        clen := 15, olen := 15, csum := 0xE451760F }) ∧
  decode Config.standard (.cmdw 0xFFFFFF02) = .ok .decompress ∧
  decode Config.standard (.cmdw 0x00000001) = .ok .getOriginalLen ∧
  decode Config.standard (.cmdw 0x00000007) = .ok (.badCommand 0x07) ∧
  decode Config.standard (.bus { dir := .write, width := 32, off := 0x18, data := 0x4 }) =
    .ok (.regWriteDstOff 0x4) ∧
  decode Config.standard (.bus { dir := .read, width := 32, off := 0x3C, data := 0 }) = .ok (.regRead 0x3C)

/-- 40_header_parser.md R120, 20_memory.md R65: a header field is the little-endian number of its four
bytes. -/
def Obligations.ReadFieldIsLittleEndian : Prop :=
  ∀ (s : State) (k : Nat),
    (readField s k).toNat =
      (memRead s.mem (srcAddr s + k)).toNat + 256 * (memRead s.mem (srcAddr s + k + 1)).toNat
        + 65536 * (memRead s.mem (srcAddr s + k + 2)).toNat
        + 16777216 * (memRead s.mem (srcAddr s + k + 3)).toNat

/-- 40_header_parser.md R122: a header that stands in memory at SRC is parsed to its fields. -/
def Obligations.HeaderInMemoryIsParsed : Prop :=
  ∀ (s : State) (h : Header), h.fields.magic.length = s.cfg.magicLen →
    memReadBytes s.mem (srcAddr s) s.cfg.headerLen = encodeHeader h.method h.fields →
    parseHeader s = h

/-- 41_dispatch.md R140, R141, R142: the class of every method byte, on every build. -/
def Obligations.MethodByteIsClassified : Prop :=
  ∀ (c : Config) (m : Byte),
    (classify c m = .raw ↔ m = c.codeRaw) ∧
    (classify c m = .a ↔ m = c.codeA ∧ (c.acceptForeign = true ∨ c.owner = .a)) ∧
    (classify c m = .b ↔ m = c.codeB ∧ (c.acceptForeign = true ∨ c.owner = .b)) ∧
    (classify c m = .other ↔
      m ≠ c.codeRaw ∧ ¬(m = c.codeA ∧ (c.acceptForeign = true ∨ c.owner = .a)) ∧
        ¬(m = c.codeB ∧ (c.acceptForeign = true ∨ c.owner = .b)))

/-! ## A step -/

/-- A step runs the decoded instruction: the bus operation the host puts next, and the command of a
PENDING state when the device moves (43_register_access.md R201), unless a contract fault has ended it
(60_exceptions.md R226). Around exec a step only takes the move off the agenda. -/
def Obligations.StepRunsDecodedInstruction : Prop :=
  (∀ (s : State) (a : BusAccess) (rest : List Event) (i : Instr), s.agenda = .bus a :: rest →
    decode s.cfg (.bus a) = .ok i → step s = exec i { s with agenda := rest }) ∧
  (∀ (s : State) (w : Word) (i : Instr), DeviceMoves s → s.phase = .pending → s.commandFault = none →
    w.setWidth 8 = s.status.lastOp → decode s.cfg (.cmdw w) = .ok i →
    step s = exec i { s with agenda := s.agenda.tail })

/-- 41_dispatch.md R145: DECOMPRESS runs the METHOD row that the bytes at SRC decode to, on the state in
which their header is latched. -/
def Obligations.DecompressRunsHeaderInstruction : Prop :=
  ∀ (s : State) (n : Nat) (i : Instr), HeaderReady s →
    decode s.cfg (.header (memReadBytes s.mem (srcAddr s) (s.cfg.headerLen + n))) = .ok i →
    exec .decompress s = exec i (latchHeader (parseHeader s) s)

/-- 43_register_access.md R205, 10_state.md R23: a bus access that is not 32 bits wide, outside the window,
or not aligned is refused, which sets the fault mark; it has no other meaning, and the mark names the first
of the three that applies. What else it leaves is assumption log 2: the phase, STATUS, memory and a PENDING
command with its arguments as they were. Every other access runs its instruction and is not refused. -/
def Obligations.MalformedAccessIsRefused : Prop :=
  ∀ (s : State) (a : BusAccess) (rest : List Event), s.agenda = .bus a :: rest →
    let s' : State := { s with agenda := rest }
    let refuses (e : DecodeError) : Prop := ∃ t, step s = .next t ∧ RefusesAccess e a.dir s' t
    (a.width ≠ 32 → refuses .wrongWidth) ∧
    (a.width = 32 → 0x100 ≤ a.off → refuses .outOfWindow) ∧
    (a.width = 32 → a.off < 0x100 → a.off % 4 ≠ 0 → refuses .misaligned) ∧
    (a.width = 32 → a.off < 0x100 → a.off % 4 = 0 →
      ∃ (i : Instr) (t : State), decode s.cfg (.bus a) = .ok i ∧ step s = exec i s' ∧ exec i s' = .next t ∧
        ∀ e, t.fault = some (.refused e) → s.fault = some (.refused e))

/-- 70_reset_and_hazards.md R250, 60_exceptions.md R238: in IDLE the block waits; its turn changes
nothing. -/
def Obligations.IdleDeviceWaits : Prop :=
  ∀ s : State, DeviceMoves s → s.phase = .idle → step s = .next { s with agenda := s.agenda.tail }

/-- 70_reset_and_hazards.md R258: a PENDING command, once the device moves, ends in a completion or in a
contract fault, whatever the fault mark, unless a contract fault has ended it before. -/
def Obligations.PendingCommandEnds : Prop :=
  ∀ s : State, DeviceMoves s → s.phase = .pending → s.commandFault = none →
    ∃ t, step s = .next t ∧
      (t.fault = s.fault ∧ t.phase = .idle ∧ t.status.done = true ∧ t.status.busy = false ∨
        ∃ r : ContractFault, (s.fault = none → t.fault = some (.contract r)) ∧
          ∃ e, t.commandFault = some e ∧ e.reason = r)

/-! ## Reset and the invariant -/

/-- 70_reset_and_hazards.md R250, R251: the reset input, at any time, puts every piece of block state into
its reset value and leaves host memory but the destination window of an abandoned command.
The window of an abandoned command, in a faulted state too, is assumption log 15 and 23; that reset keeps the
build is 70_reset_and_hazards.md R252, that it keeps the admitted regions is assumption log 21. -/
def Obligations.ResetInputResetsBlock : Prop :=
  ∀ (s : State) (rest : List Event), s.agenda = .reset :: rest →
    ∃ t, step s = .next t ∧ t.agenda = rest ∧
      t.phase = .idle ∧ t.ckState = .idle ∧ t.fault = none ∧ statusWord t.status = 0 ∧
      t.srcAddrLo = 0 ∧ t.srcAddrHi = 0 ∧ t.dstAddrLo = 0 ∧ t.dstAddrHi = 0 ∧ t.dstOff = 0 ∧
      t.result = 0 ∧ t.hdrMethod = 0 ∧ t.hdrClen = 0 ∧ t.hdrOlen = 0 ∧ t.hdrCsum = 0 ∧
      t.hdrMagic0 = 0 ∧ t.hdrMagic1 = 0 ∧ t.hdrMagic2 = 0 ∧ t.hdrMagic3 = 0 ∧
      t.diagExpected = 0 ∧ t.diagActual = 0 ∧ SameLaunch s t ∧
      SameOutside (pendingWindow s) s t ∧ (s.phase = .idle → t.mem = s.mem)

/-- The invariant holds right after reset, on every build and launch. -/
def Obligations.ResetMeetsInvariant : Prop :=
  BlockInv State.reset ∧
  ∀ (c : Config) (mem : Memory) (src dst : List Region) (agenda : List Event),
    mem.wf → mem.inSpace → BlockInv (State.launch c mem src dst agenda)

/-- 10_state.md R22, R26, R31, R36: every step keeps the invariant: canonical memory, an idle accumulator,
BUSY exactly while PENDING, STATUS's laws, RESULT 0 after an error, and zero magic padding. -/
def Obligations.StepKeepsInvariant : Prop :=
  ∀ s t : State, BlockInv s → step s = .next t → BlockInv t

/-- 70_reset_and_hazards.md R252, 20_memory.md R62: no step, reset among them, changes the build or the
admitted regions.
That reset, which starts a new run (10_state.md R23), keeps the admitted regions is assumption log 21 and 23. -/
def Obligations.BuildAndLaunchNeverChange : Prop :=
  ∀ s t : State, step s = .next t → SameLaunch s t

/-- 10_state.md R45: STATUS changes only by a CMD write, by a command's device step, or by a contract
fault. Every other bus instruction leaves all of it, whatever the fault mark; that a refused access does so
too is assumption log 2 and, as an instruction, a term no encoding gives (assumption log 10). -/
def Obligations.OnlyCommandsChangeStatus : Prop :=
  (∀ (s t : State) (off : Byte), exec (.regRead off) s = .next t → t.status = s.status ∧ t.phase = s.phase) ∧
  ∀ (s t : State), s.commandFault = none → t.commandFault = none →
    (∀ i, isRegWrite i = true → (∀ d, i ≠ .regWriteCmd d) → exec i s = .next t →
      t.status = s.status ∧ t.phase = s.phase) ∧
    (∀ d, exec (.regWriteCmd d) s = .next t →
      t.status.busy = true ∧ t.status.done = false ∧ t.status.err = false)

/-! ## Host register access -/

/-- 10_state.md R24, 43_register_access.md R200: in IDLE a read returns the register's value and changes
nothing else. -/
def Obligations.IdleReadReturnsRegister : Prop :=
  ∀ s : State, s.phase = .idle →
    exec (.regRead 0x00) s = .next { s with readData := 0 } ∧
    exec (.regRead 0x04) s = .next { s with readData := statusWord s.status } ∧
    exec (.regRead 0x08) s = .next { s with readData := s.srcAddrLo } ∧
    exec (.regRead 0x0C) s = .next { s with readData := s.srcAddrHi } ∧
    exec (.regRead 0x10) s = .next { s with readData := s.dstAddrLo } ∧
    exec (.regRead 0x14) s = .next { s with readData := s.dstAddrHi } ∧
    exec (.regRead 0x18) s = .next { s with readData := s.dstOff } ∧
    exec (.regRead 0x1C) s = .next { s with readData := s.result } ∧
    exec (.regRead 0x20) s = .next { s with readData := s.hdrMethod.setWidth 32 } ∧
    exec (.regRead 0x24) s = .next { s with readData := s.hdrClen } ∧
    exec (.regRead 0x28) s = .next { s with readData := s.hdrOlen } ∧
    exec (.regRead 0x2C) s = .next { s with readData := s.hdrCsum } ∧
    exec (.regRead 0x30) s = .next { s with readData := s.diagExpected } ∧
    exec (.regRead 0x34) s = .next { s with readData := s.diagActual } ∧
    exec (.regRead 0x38) s = .next { s with readData := cfg0Word s.cfg } ∧
    exec (.regRead 0x3C) s = .next { s with readData := cfg1Word s.cfg } ∧
    exec (.regRead 0x40) s = .next { s with readData := s.cfg.fastSeed } ∧
    exec (.regRead 0x44) s = .next { s with readData := s.cfg.fastMask } ∧
    exec (.regRead 0x50) s = .next { s with readData := s.hdrMagic0 } ∧
    exec (.regRead 0x54) s = .next { s with readData := s.hdrMagic1 } ∧
    exec (.regRead 0x58) s = .next { s with readData := s.hdrMagic2 } ∧
    exec (.regRead 0x5C) s = .next { s with readData := s.hdrMagic3 }

/-- 43_register_access.md R204: while PENDING a read of STATUS returns the true value, and a read of any
other register some value, of which nothing is said; neither changes a register or memory. -/
def Obligations.PendingReadReturnsDraw : Prop :=
  ∀ s : State, s.phase = .pending →
    exec (.regRead 0x04) s = .next { s with readData := statusWord s.status } ∧
    ∀ off : Byte, off.toNat % 4 = 0 → off ≠ 0x04 →
      ∃ (v : Word) (n : Nat), exec (.regRead off) s = .next { s with readData := v, draws := n }

/-- 10_state.md R44: reserved offsets and reserved bits (CMD [31:8], STATUS [3] and [31:16], HDR_METHOD
[31:8], CFG0 [7:5] and [31:10], CFG1 [31:24]) read 0 and ignore writes. -/
def Obligations.ReservedReadsZeroIgnoresWrites : Prop :=
  ∀ s : State, s.phase = .idle →
    (∀ off : Byte, off.toNat % 4 = 0 → off.toNat = 0x48 ∨ off.toNat = 0x4C ∨ 0x60 ≤ off.toNat →
      exec (.regRead off) s = .next { s with readData := 0 } ∧
        ∀ d, exec (.regWriteIgnored off d) s = .next s) ∧
    (exec (.regRead 0x00) s = .next { s with readData := 0 } ∧
      ∀ d d' : Word, d.setWidth 8 = d'.setWidth 8 → exec (.regWriteCmd d) s = exec (.regWriteCmd d') s) ∧
    (∀ k, k = 3 ∨ 16 ≤ k → (statusWord s.status).getLsbD k = false) ∧
    (∀ k, 8 ≤ k → (regValue 0x20 s).getLsbD k = false) ∧
    (∀ k, 5 ≤ k ∧ k ≤ 7 ∨ 10 ≤ k → (regValue 0x38 s).getLsbD k = false) ∧
    (∀ k, 24 ≤ k → (regValue 0x3C s).getLsbD k = false) ∧
    (∀ d, ∀ off ∈ [(0x04 : Byte), 0x20, 0x38, 0x3C], exec (.regWriteIgnored off d) s = .next s)

/-- 10_state.md R26: the places of STATUS's fields. -/
def Obligations.StatusFieldPlaces : Prop :=
  ∀ st : Status,
    (statusWord st).toNat =
      (if st.busy then 1 else 0) + (if st.done then 2 else 0) + (if st.err then 4 else 0)
        + 16 * (errValue st.errcode).toNat + 256 * st.lastOp.toNat ∧
    (errValue .none = 0 ∧ errValue .unsupportedMethod = 1 ∧ errValue .sizeMismatch = 2 ∧
      errValue .checksumMismatch = 3 ∧ errValue .badCommand = 4)

/-- 10_state.md R41 to R43: the fields of the configuration registers. -/
def Obligations.ConfigRegisterFields : Prop :=
  ∀ s : State,
    (regValue 0x38 s).toNat =
      s.cfg.magicLen + (if s.cfg.owner = .b then 256 else 0) + (if s.cfg.acceptForeign then 512 else 0) ∧
    (regValue 0x3C s).toNat =
      s.cfg.codeRaw.toNat + 256 * s.cfg.codeA.toNat + 65536 * s.cfg.codeB.toNat ∧
    regValue 0x40 s = s.cfg.fastSeed ∧ regValue 0x44 s = s.cfg.fastMask

/-- 43_register_access.md R201: a CMD write in IDLE starts the command of its low byte, whatever its other
bits; while PENDING it is ContractFault(BusyWrite); the device step that follows runs the command LAST_OP
names.
What a contract fault leaves is 60_exceptions.md R226 as assumption log 1, 15 and 23 read it; the device's move is
assumption log 3. -/
def Obligations.CmdWriteStartsCommand : Prop :=
  (∀ (s : State) (d : Word), s.phase = .idle →
    exec (.regWriteCmd d) s =
      .next { s with
        phase := .pending
        status := { busy := true, done := false, err := false, errcode := .none, lastOp := d.setWidth 8 } }) ∧
  (∀ (s : State) (d : Word), s.phase = .pending →
    ∃ t, exec (.regWriteCmd d) s = .next t ∧ TakesContractFault .busyWrite (pendingWindow s) s t) ∧
  (∀ s : State, DeviceMoves s → s.phase = .pending → s.commandFault = none →
    step s =
      if s.status.lastOp = 0x01 then exec .getOriginalLen { s with agenda := s.agenda.tail }
      else if s.status.lastOp = 0x02 then exec .decompress { s with agenda := s.agenda.tail }
      else exec (.badCommand s.status.lastOp) { s with agenda := s.agenda.tail })

/-- 43_register_access.md R202: an argument write in IDLE stores all 32 bits in its register, and nothing
else changes; a write to any other aligned offset is ignored; while PENDING each is
ContractFault(BusyWrite).
What a contract fault leaves is assumption log 1, 15 and 23; the ignored writes hold for every aligned
offset, those with a row of their own among them, which the decoder never gives (assumption log 10). -/
def Obligations.ArgumentWritesStore : Prop :=
  (∀ (s : State) (d : Word), s.phase = .idle →
    exec (.regWriteSrcAddrLo d) s = .next { s with srcAddrLo := d } ∧
    exec (.regWriteSrcAddrHi d) s = .next { s with srcAddrHi := d } ∧
    exec (.regWriteDstAddrLo d) s = .next { s with dstAddrLo := d } ∧
    exec (.regWriteDstAddrHi d) s = .next { s with dstAddrHi := d } ∧
    exec (.regWriteDstOff d) s = .next { s with dstOff := d } ∧
    ∀ off : Byte, off.toNat % 4 = 0 → exec (.regWriteIgnored off d) s = .next s) ∧
  (∀ (s : State) (d : Word), s.phase = .pending →
    ∀ i ∈ [Instr.regWriteSrcAddrLo d, .regWriteSrcAddrHi d, .regWriteDstAddrLo d, .regWriteDstAddrHi d,
        .regWriteDstOff d],
      ∃ t, exec i s = .next t ∧ TakesContractFault .busyWrite (pendingWindow s) s t) ∧
  (∀ (s : State) (d : Word) (off : Byte), s.phase = .pending → off.toNat % 4 = 0 →
    ∃ t, exec (.regWriteIgnored off d) s = .next t ∧
      TakesContractFault .busyWrite (pendingWindow s) s t)

/-- 43_register_access.md R206: a register write of any offset while PENDING raises
ContractFault(BusyWrite).
What a contract fault leaves, in marked states too, is 60_exceptions.md R226 as assumption log 1, 15, 16 and 23
read it. -/
def Obligations.PendingWriteIsBusyWrite : Prop :=
  ∀ (s : State) (i : Instr), isRegWrite i = true → i.wf s.cfg = true → s.phase = .pending →
    ∃ t, exec i s = .next t ∧ TakesContractFault .busyWrite (pendingWindow s) s t ∧
      (s.fault = none → t.fault = some (.contract .busyWrite))

/-! ## Commands -/

/-- 40_header_parser.md R127: GET_ORIGINAL_LEN completes with the original_len field, whatever it is, in
RESULT and HDR_OLEN; nothing else changes but STATUS and the phase. Its only exceptions are SrcOutOfBounds
and AddressRange, when the header is not ready.
What a contract fault leaves is 60_exceptions.md R226 as assumption log 1 reads it. -/
def Obligations.GetOriginalLenCompletes : Prop :=
  (∀ s : State, HeaderReady s →
    exec .getOriginalLen s =
      .next { s with
        hdrOlen := readField s (s.cfg.magicLen + 5)
        result := readField s (s.cfg.magicLen + 5)
        status := { busy := false, done := true, err := false, errcode := .none, lastOp := s.status.lastOp }
        phase := .idle }) ∧
  (∀ s : State, ¬HeaderReady s →
    ∃ t r, (r = .srcOutOfBounds ∨ r = .addressRange) ∧ exec .getOriginalLen s = .next t ∧
      TakesContractFault r Window.empty s t)

/-- 43_register_access.md R203: BAD_COMMAND completes with code 4 and the OPCODE in DIAG_ACTUAL; nothing
else changes but STATUS and the phase. It is the device step of a PENDING command whose LAST_OP is neither
0x01 nor 0x02, when the device moves (assumption log 3). -/
def Obligations.BadCommandCompletes : Prop :=
  (∀ (s : State) (op : Byte),
    exec (.badCommand op) s =
      .next { s with
        result := 0
        diagExpected := 0
        diagActual := op.setWidth 32
        status := { busy := false, done := true, err := true, errcode := .badCommand, lastOp := s.status.lastOp }
        phase := .idle }) ∧
  (∀ s : State, DeviceMoves s → s.phase = .pending → s.commandFault = none → s.status.lastOp ≠ 0x01 →
    s.status.lastOp ≠ 0x02 →
    step s = exec (.badCommand s.status.lastOp) { s with agenda := s.agenda.tail })

/-- 41_dispatch.md R146: METHOD_OTHER completes with UNSUPPORTED_METHOD and the method byte in
DIAG_ACTUAL, whatever the other fields, the offset and the admitted regions; nothing else changes. -/
def Obligations.UnsupportedMethodCompletes : Prop :=
  (∀ (s : State) (m : Byte) (f : Fields),
    exec (.methodOther m f) s =
      .next { s with
        result := 0
        diagExpected := 0
        diagActual := m.setWidth 32
        status :=
          { busy := false, done := true, err := true, errcode := .unsupportedMethod, lastOp := s.status.lastOp }
        phase := .idle }) ∧
  (∀ s : State, HeaderReady s → classify s.cfg (parseHeader s).method = .other →
    ∃ t, exec .decompress s = .next t ∧
      Completed .unsupportedMethod 0 0 ((parseHeader s).method.setWidth 32) s t ∧ t.mem = s.mem)

/-- 41_dispatch.md R148: METHOD_RAW copies original_len payload bytes to the window, verbatim, and ends
with the checksum of the owner's engine. -/
def Obligations.RawPathCompletes : Prop :=
  ∀ (s : State) (f : Fields), s.mem.wf → PathReady .raw f s →
    ∃ t, exec (.methodRaw f) s = .next t ∧ RawResult f s t

/-- 41_dispatch.md R149 to R151: the codec paths put the primitive's output into the window; a count other
than original_len is SIZE_MISMATCH with both counts; otherwise the fast hash (A) or CRC-32 (B) decides. -/
def Obligations.CodecPathsComplete : Prop :=
  (∀ (s : State) (f : Fields), s.mem.wf → PathReady .a f s →
    ∃ t, exec (.methodAlgoA f) s = .next t ∧
      CodecResult (primA (readPayload f.clen.toNat s) f.olen.toNat) .fast f s t) ∧
  (∀ (s : State) (f : Fields), s.mem.wf → PathReady .b f s →
    ∃ t, exec (.methodAlgoB f) s = .next t ∧
      CodecResult (primB (readPayload f.clen.toNat s) f.olen.toNat) .crc f s t)

/-- 41_dispatch.md R145, R156: DECOMPRESS, its contract holding, completes with its header latched and with
the outcome of its class; the arguments, the launch data and every byte outside the window are
unchanged. -/
def Obligations.DecompressCompletes : Prop :=
  ∀ s : State, s.mem.wf → HeaderReady s →
    (classify s.cfg (parseHeader s).method ≠ .other →
      PathReady (classify s.cfg (parseHeader s).method) (parseHeader s).fields s) →
    ∃ t, exec .decompress s = .next t ∧ Latched (parseHeader s) t ∧ MethodResult (parseHeader s) s t ∧
      SameArguments s t ∧ SameLaunch s t ∧ SameHost s t ∧ t.fault = s.fault ∧
      SameOutside (windowOf (parseHeader s).fields s) s t

/-- 40_header_parser.md R123, 10_state.md R32 to R36: a DECOMPRESS that no contract fault ends has latched the
header, its magic byte i in byte i mod 4 of HDR_MAGIC(i div 4), and 0 in the positions past M. -/
def Obligations.HeaderIsLatched : Prop :=
  ∀ s t : State, s.commandFault = none → exec .decompress s = .next t → t.commandFault = none →
    Latched (parseHeader s) t ∧
    ∀ i < 16, magicByte t i = if i < s.cfg.magicLen then memRead s.mem (srcAddr s + i) else 0

/-! ## Contract faults -/

/-- 40_header_parser.md R121: the first header byte that is out of range or not admitted ends either
command in its contract fault; a header with no such byte raises none.
What a contract fault leaves is 60_exceptions.md R226 as assumption log 1 reads it, and the window of a DECOMPRESS
whose header is not admitted is assumption log 15. -/
def Obligations.HeaderByteFaults : Prop :=
  (∀ s : State, HeaderReady s →
    (∃ t, exec .getOriginalLen s = .next t ∧ t.fault = s.fault) ∧
      exec .decompress s = exec (methodInstr s.cfg (parseHeader s)) (latchHeader (parseHeader s) s)) ∧
  ∀ (s : State) (k : Nat), k < s.cfg.headerLen → (∀ i < k, ByteReady s.srcAdmit (srcAddr s) i) →
    (addrSpace ≤ srcAddr s + k →
      (∃ t, exec .getOriginalLen s = .next t ∧ TakesContractFault .addressRange Window.empty s t) ∧
      (∃ t, exec .decompress s = .next t ∧
        TakesContractFault .addressRange (windowOf (parseHeader s).fields s) s t)) ∧
    (srcAddr s + k < addrSpace → admits s.srcAdmit (srcAddr s + k) = false →
      (∃ t, exec .getOriginalLen s = .next t ∧ TakesContractFault .srcOutOfBounds Window.empty s t) ∧
      (∃ t, exec .decompress s = .next t ∧
        TakesContractFault .srcOutOfBounds (windowOf (parseHeader s).fields s) s t))

/-- 41_dispatch.md R147, 60_exceptions.md R227: for a supported class the destination and length checks
are taken in this order, and the first that fails is the contract fault the command ends in.
What a contract fault leaves, its window with any value, is 60_exceptions.md R226 as assumption log 1
reads it. -/
def Obligations.DestinationChecksInOrder : Prop :=
  ∀ (s : State) (cls : MethodClass) (f : Fields), HeaderReady s → f = (parseHeader s).fields →
    cls = classify s.cfg (parseHeader s).method → cls ≠ .other →
    let faults (r : ContractFault) : Prop :=
      ∃ t, exec .decompress s = .next t ∧ TakesContractFault r (windowOf f s) s t
    let w := (windowBase s).toNat
    (dstOffset s < 0 → faults .negativeOffset) ∧
    (0 ≤ dstOffset s → f.olen.toInt < 0 → faults .negativeLength) ∧
    (0 ≤ dstOffset s → 0 ≤ f.olen.toInt → cls ≠ .raw → f.clen.toInt < 0 → faults .negativeLength) ∧
    (LengthsReady cls f s → ∀ k < f.olen.toNat, (∀ i < k, ByteReady s.dstAdmit w i) →
      (addrSpace ≤ w + k → faults .addressRange) ∧
      (w + k < addrSpace → admits s.dstAdmit (w + k) = false → faults .dstOutOfBounds)) ∧
    (LengthsReady cls f s → WindowReady f s →
      ∀ k < s.cfg.headerLen + payloadLen cls f, (∀ i < k, ByteReady s.srcAdmit (srcAddr s) i) →
        (addrSpace ≤ srcAddr s + k → faults .addressRange) ∧
        (srcAddr s + k < addrSpace → admits s.srcAdmit (srcAddr s + k) = false → faults .srcOutOfBounds)) ∧
    (LengthsReady cls f s → WindowReady f s → FootprintReady cls f s → ¬WindowApart cls f s →
      faults .overlap)

/-- 10_state.md R23, 60_exceptions.md R226: whatever set it, no step but reset clears the fault mark, and reset
clears it. The device takes no further step on a command that a contract fault has ended (assumption log 16);
where the mark is a contract fault's, in every state that meets the
invariant, there is such a command. -/
def Obligations.FaultMarkIsSticky : Prop :=
  (∀ (s t : State) (c : FaultCause), s.fault = some c → (∀ rest, s.agenda ≠ .reset :: rest) →
    step s = .next t → t.fault = some c) ∧
  (∀ (s : State) (rest : List Event), s.agenda = .reset :: rest → ∃ t, step s = .next t ∧ t.fault = none) ∧
  (∀ (s : State) (e : CommandFault), s.commandFault = some e → s.phase = .pending → DeviceMoves s →
    step s = .fault (.faulted e.reason)) ∧
  (∀ (s : State) (r : ContractFault), BlockInv s → s.fault = some (.contract r) → DeviceMoves s →
    ∃ c, step s = .fault (.faulted c))

/-! ## Memory -/

/-- 20_memory.md R70: an instruction stores only to its window, computed on the state it starts in. Every
other byte reads as before; for an instruction whose window is empty that is every byte. The window that a
BusyWrite (43_register_access.md R206) leaves with any value is 60_exceptions.md R226 as assumption log 1, 15
and 23 read it; that an access refused at a misaligned offset (43_register_access.md R205), a term no encoding
gives (assumption log 10), stores no byte is assumption log 2. -/
def Obligations.OnlyTheWindowIsWritten : Prop :=
  ∀ (i : Instr) (s t : State), exec i s = .next t → SameOutside (storeWindow i s) s t

/-- 20_memory.md R63, R72: a DECOMPRESS that no contract fault ends has changed no byte of its read footprint. -/
def Obligations.ReadFootprintIsUnchanged : Prop :=
  ∀ s t : State, s.commandFault = none → exec .decompress s = .next t → t.commandFault = none →
    ∀ a, (footprintOf (classify s.cfg (parseHeader s).method) (parseHeader s).fields s).covers a = true →
      memRead t.mem a = memRead s.mem a

/-- The frame of the codec and RAW paths (41_dispatch.md R148 to R152): a path that completes leaves the
argument registers, the header registers, LAST_OP, the build and launch data, the host's fields and every
byte outside [Wbase, Wbase + original_len). -/
def Obligations.PathFrame : Prop :=
  ∀ (s t : State) (f : Fields) (i : Instr),
    i = .methodRaw f ∨ i = .methodAlgoA f ∨ i = .methodAlgoB f →
    s.commandFault = none → exec i s = .next t → t.commandFault = none →
    SameArguments s t ∧ SameHeaderRegs s t ∧ SameLaunch s t ∧ SameHost s t ∧
    t.status.lastOp = s.status.lastOp ∧ t.fault = s.fault ∧ t.draws = s.draws ∧
    (s.ckState = .idle → t.ckState = .idle) ∧
    ∀ a, a < (windowBase s).toNat ∨ (windowBase s).toNat + f.olen.toNat ≤ a →
      memRead t.mem a = memRead s.mem a

/-- 20_memory.md R76: the host's own accesses, whatever the fault mark. While PENDING a store to a byte that
the command reads or of its window is ContractFault(HostInterference), the byte holding some value (assumption
log 16), the registers and the window any (60_exceptions.md R226, assumption log 1). In IDLE, and on every
byte outside those while PENDING, a store stores its byte and no other; in IDLE, and on every byte outside the
window while PENDING, a load returns what memory holds, a completed command's writes among it. A load of a
window byte while PENDING returns some value and changes nothing else. Which bytes those are:
`Obligations.PendingCommandFootprints`. -/
def Obligations.HostMemoryAccesses : Prop :=
  (∀ (s : State) (a : Addr) (b : Byte) (rest : List Event), s.agenda = .hostStore a b :: rest →
    (pendingReads s).covers a.toNat = true ∨ (pendingWindow s).covers a.toNat = true →
    ∃ (t : State) (v : Byte), step s = .next t ∧
      TakesContractFault .hostInterference (pendingWindow s)
        { s with agenda := rest, mem := memWrite s.mem a.toNat v } t ∧
      (s.fault = none → t.fault = some (.contract .hostInterference))) ∧
  (∀ (s : State) (a : Addr) (b : Byte) (rest : List Event), s.agenda = .hostStore a b :: rest → s.mem.wf →
    s.phase = .idle ∨ (pendingReads s).covers a.toNat = false ∧ (pendingWindow s).covers a.toNat = false →
    ∃ m, step s = .next { s with agenda := rest, mem := m } ∧ memRead m a.toNat = b ∧
      ∀ a', a' ≠ a.toNat → memRead m a' = memRead s.mem a') ∧
  (∀ (s : State) (a : Addr) (rest : List Event), s.agenda = .hostLoad a :: rest →
    s.phase = .idle ∨ (pendingWindow s).covers a.toNat = false →
    step s = .next { s with agenda := rest, loadData := memRead s.mem a.toNat }) ∧
  (∀ (s : State) (a : Addr) (rest : List Event), s.agenda = .hostLoad a :: rest →
    (pendingWindow s).covers a.toNat = true →
    ∃ (v : Byte) (n : Nat), step s = .next { s with agenda := rest, loadData := v, draws := n })

/-! ## The checksum verifier -/

/-- 42_checksum.md R178, R182, R175: the spec's own digests: the check value of CRC-32, the two digests of
the empty string, and XXH32's known values. -/
def Obligations.DigestKnownValues : Prop :=
  crc32 [0x31, 0x32, 0x33, 0x34, 0x35, 0x36, 0x37, 0x38, 0x39] = 0xCBF43926 ∧
  crc32 [] = 0x00000000 ∧
  fastDigest Config.standard [] = 0x8D3B42D8 ∧
  xxh32 [] 0 = 0x02CC5D05 ∧ xxh32 [0x61] 0 = 0x550D7456 ∧ xxh32 [0x61, 0x62, 0x63] 0 = 0x32D153FF

/-- 42_checksum.md R172, R181: the accumulator, reset and fed the window in chunks of any size in address
order, gives the engine's digest of the whole. -/
def Obligations.AccumulatorComputesDigest : Prop :=
  ∀ (c : Config) (e : Engine) (chunks : List (List Byte)),
    accDigest c (chunks.foldl accUpdate (accReset c e)) = digest c e chunks.flatten

/-- 42_checksum.md R188: flipping any one bit of the checksum field of a block that completes with NONE
makes it complete with CHECKSUM_MISMATCH. -/
def Obligations.ChecksumBitFlipIsDetected : Prop :=
  ∀ (s t : State) (k : Nat), k < 32 → s.mem.wf → s.commandFault = none →
    exec .decompress s = .next t → t.commandFault = none → t.status.errcode = .none →
    let a := srcAddr s + s.cfg.magicLen + 9 + k / 8
    ∃ t', exec .decompress { s with mem := memWrite s.mem a (memRead s.mem a ^^^ (1#8 <<< (k % 8))) } =
        .next t' ∧
      t'.fault = t.fault ∧ t'.commandFault = none ∧ t'.status.done = true ∧ t'.status.err = true ∧
      t'.status.errcode = .checksumMismatch ∧ t'.result = 0 ∧ t'.diagActual = t.diagActual

/-- 40_header_parser.md R124: the magic is never validated. Changing a magic byte changes neither the
outcome, its registers, nor any other byte of memory. -/
def Obligations.MagicIsNotValidated : Prop :=
  ∀ (s t : State) (i : Nat) (b : Byte), i < s.cfg.magicLen → s.mem.wf → s.commandFault = none →
    exec .decompress s = .next t → t.commandFault = none →
    ∃ t', exec .decompress { s with mem := memWrite s.mem (srcAddr s + i) b } = .next t' ∧
      t'.fault = t.fault ∧ t'.commandFault = none ∧ t'.status = t.status ∧
      t'.result = t.result ∧ t'.diagExpected = t.diagExpected ∧
      t'.diagActual = t.diagActual ∧ ∀ a, a ≠ srcAddr s + i → memRead t'.mem a = memRead t.mem a

/-- 42_checksum.md R185, 40_header_parser.md R125: no state crosses commands. Two states that give
DECOMPRESS the same operands reach the same outcome, whatever earlier commands left in the accumulator,
the result, header and diagnostic registers, and the fault mark. -/
def Obligations.NoStateCrossesCommands : Prop :=
  ∀ s s' t : State, AgreeOnInputs s s' → s.commandFault = none → s'.commandFault = none →
    exec .decompress s = .next t → t.commandFault = none →
    ∃ t', exec .decompress s' = .next t' ∧ t'.commandFault = none ∧ t'.fault = s'.fault ∧ SameOutcome t t'

/-- 41_dispatch.md R159: the round-trip laws. (1) A RAW block of B with the owner engine's digest of B
decompresses to exactly B. (2) A codec block whose primitive returns |B| and B, with the codec engine's
digest of B, decompresses to exactly B. -/
def Obligations.RoundTripLaws : Prop :=
  ∀ (s : State) (h : Header) (b : List Byte), s.mem.wf → b.length ≤ 2 ^ 31 - 1 →
    h.fields.magic.length = s.cfg.magicLen → h.fields.olen = BitVec.ofNat 32 b.length →
    memReadBytes s.mem (srcAddr s) s.cfg.headerLen = encodeHeader h.method h.fields →
    classify s.cfg h.method ≠ .other → PathReady (classify s.cfg h.method) h.fields s →
    ∃ t, exec .decompress s = .next t ∧
      (h.method = s.cfg.codeRaw → readPayload b.length s = b →
        h.fields.csum = digest s.cfg (ownerEngine s.cfg) b →
        t.status.errcode = .none ∧ t.result = BitVec.ofNat 32 b.length ∧ WindowHolds b h.fields s t) ∧
      (h.method = s.cfg.codeA →
        primA (readPayload h.fields.clen.toNat s) b.length =
          { count := BitVec.ofNat 32 b.length, out := b } →
        h.fields.csum = fastDigest s.cfg b →
        t.status.errcode = .none ∧ t.result = BitVec.ofNat 32 b.length ∧ WindowHolds b h.fields s t) ∧
      (h.method = s.cfg.codeB →
        primB (readPayload h.fields.clen.toNat s) b.length =
          { count := BitVec.ofNat 32 b.length, out := b } →
        h.fields.csum = crc32 b →
        t.status.errcode = .none ∧ t.result = BitVec.ofNat 32 b.length ∧ WindowHolds b h.fields s t)

/-! ## The bytes of a command in progress -/

/-- 20_memory.md R69, R70: which bytes the command in progress reads and writes, by the OPCODE in LAST_OP:
for DECOMPRESS the header and the payload of its class, and the window [DST + off, DST + off +
original_len) (assumption log 15); for GET_ORIGINAL_LEN the four bytes of original_len (assumption log 14);
for every other OPCODE nothing (43_register_access.md R203); in IDLE nothing. These are the bytes of
`Obligations.HostMemoryAccesses`; once a contract fault has ended the command they stay what they were
(`Obligations.FootprintStaysWhilePending`). -/
def Obligations.PendingCommandFootprints : Prop :=
  ∀ (s : State) (a : Nat), a < addrSpace →
    let h := parseHeader s
    let base : Int := (dstAddr s : Int) + s.dstOff.toInt
    let payload : Nat :=
      match classify s.cfg h.method with
      | .raw => h.fields.olen.toInt.toNat
      | .a => h.fields.clen.toInt.toNat
      | .b => h.fields.clen.toInt.toNat
      | .other => 0
    let reads : Prop := (pendingReads s).covers a = true
    let writes : Prop := (pendingWindow s).covers a = true
    (s.commandFault = none → s.phase = .pending → s.status.lastOp = 0x02 →
      (reads ↔ srcAddr s ≤ a ∧ a < srcAddr s + s.cfg.headerLen + payload) ∧
      (writes ↔ base ≤ a ∧ (a : Int) < base + h.fields.olen.toInt)) ∧
    (s.commandFault = none → s.phase = .pending → s.status.lastOp = 0x01 →
      (reads ↔ srcAddr s + s.cfg.magicLen + 5 ≤ a ∧ a ≤ srcAddr s + s.cfg.magicLen + 8) ∧ ¬writes) ∧
    (s.commandFault = none → s.phase = .pending → s.status.lastOp ≠ 0x01 → s.status.lastOp ≠ 0x02 →
      ¬reads ∧ ¬writes) ∧
    (s.phase = .idle → ¬reads ∧ ¬writes)

/-- 20_memory.md R69, R70, R76, 70_reset_and_hazards.md R255: while a command is PENDING no step changes which
bytes it reads or its window: not a host access that R76 allows, not a refused access, which leaves its
arguments and memory (assumption log 2), and not a contract fault, after which its registers hold any value
and the model keeps its bytes (assumption log 14, 15, 23). -/
def Obligations.FootprintStaysWhilePending : Prop :=
  ∀ s t : State, step s = .next t → s.phase = .pending → t.phase = .pending →
    pendingReads t = pendingReads s ∧ pendingWindow t = pendingWindow s

/-- 70_reset_and_hazards.md R258, 43_register_access.md R205: a refused access ends no command. After it the
command that was PENDING still reaches its device step once the device moves, with the OPCODE and the
arguments it had (assumption log 2), and ends in a completion or in a contract fault. -/
def Obligations.RefusedAccessEndsNoCommand : Prop :=
  ∀ (s : State) (a : BusAccess) (rest : List Event) (e : DecodeError), s.agenda = .bus a :: rest →
    decode s.cfg (.bus a) = .error e → s.phase = .pending → s.commandFault = none →
    rest = [] ∨ rest.head? = some .device →
    ∃ t u, step s = .next t ∧ t.status.lastOp = s.status.lastOp ∧ SameArguments s t ∧
      (∀ (w : Word) (i : Instr), w.setWidth 8 = s.status.lastOp → decode s.cfg (.cmdw w) = .ok i →
        step t = exec i { t with agenda := rest.tail }) ∧
      step t = .next u ∧
      (u.phase = .idle ∧ u.status.done = true ∧ u.status.busy = false ∨
        ∃ f : CommandFault, u.commandFault = some f ∧ u.phase = .pending ∧ u.status.busy = true)
end

