-- ==== Sys2Proof/Laws/State.lean ====
section
/-! SUPPORT. One lemma per field per named update of State, each true by unfolding, so that no later proof
unfolds a record update. -/

namespace Sys2Proof.Machine

variable (s : State)

/-! ## latchHeader -/

@[simp] theorem latchHeader_phase (h : Header) : (latchHeader h s).phase = s.phase := rfl
@[simp] theorem latchHeader_fault (h : Header) : (latchHeader h s).fault = s.fault := rfl
@[simp] theorem latchHeader_ckState (h : Header) : (latchHeader h s).ckState = s.ckState := rfl
@[simp] theorem latchHeader_acc (h : Header) : (latchHeader h s).acc = s.acc := rfl
@[simp] theorem latchHeader_status (h : Header) : (latchHeader h s).status = s.status := rfl
@[simp] theorem latchHeader_srcAddrLo (h : Header) : (latchHeader h s).srcAddrLo = s.srcAddrLo := rfl
@[simp] theorem latchHeader_srcAddrHi (h : Header) : (latchHeader h s).srcAddrHi = s.srcAddrHi := rfl
@[simp] theorem latchHeader_dstAddrLo (h : Header) : (latchHeader h s).dstAddrLo = s.dstAddrLo := rfl
@[simp] theorem latchHeader_dstAddrHi (h : Header) : (latchHeader h s).dstAddrHi = s.dstAddrHi := rfl
@[simp] theorem latchHeader_dstOff (h : Header) : (latchHeader h s).dstOff = s.dstOff := rfl
@[simp] theorem latchHeader_result (h : Header) : (latchHeader h s).result = s.result := rfl
@[simp] theorem latchHeader_hdrMethod (h : Header) : (latchHeader h s).hdrMethod = h.method := rfl
@[simp] theorem latchHeader_hdrClen (h : Header) : (latchHeader h s).hdrClen = h.fields.clen := rfl
@[simp] theorem latchHeader_hdrOlen (h : Header) : (latchHeader h s).hdrOlen = h.fields.olen := rfl
@[simp] theorem latchHeader_hdrCsum (h : Header) : (latchHeader h s).hdrCsum = h.fields.csum := rfl
@[simp] theorem latchHeader_hdrMagic0 (h : Header) :
    (latchHeader h s).hdrMagic0 = packMagic h.fields.magic 0 := rfl
@[simp] theorem latchHeader_hdrMagic1 (h : Header) :
    (latchHeader h s).hdrMagic1 = packMagic h.fields.magic 1 := rfl
@[simp] theorem latchHeader_hdrMagic2 (h : Header) :
    (latchHeader h s).hdrMagic2 = packMagic h.fields.magic 2 := rfl
@[simp] theorem latchHeader_hdrMagic3 (h : Header) :
    (latchHeader h s).hdrMagic3 = packMagic h.fields.magic 3 := rfl
@[simp] theorem latchHeader_diagExpected (h : Header) : (latchHeader h s).diagExpected = s.diagExpected := rfl
@[simp] theorem latchHeader_diagActual (h : Header) : (latchHeader h s).diagActual = s.diagActual := rfl
@[simp] theorem latchHeader_cfg (h : Header) : (latchHeader h s).cfg = s.cfg := rfl
@[simp] theorem latchHeader_mem (h : Header) : (latchHeader h s).mem = s.mem := rfl
@[simp] theorem latchHeader_srcAdmit (h : Header) : (latchHeader h s).srcAdmit = s.srcAdmit := rfl
@[simp] theorem latchHeader_dstAdmit (h : Header) : (latchHeader h s).dstAdmit = s.dstAdmit := rfl
@[simp] theorem latchHeader_commandFault (h : Header) : (latchHeader h s).commandFault = s.commandFault := rfl
@[simp] theorem latchHeader_agenda (h : Header) : (latchHeader h s).agenda = s.agenda := rfl
@[simp] theorem latchHeader_draws (h : Header) : (latchHeader h s).draws = s.draws := rfl
@[simp] theorem latchHeader_readData (h : Header) : (latchHeader h s).readData = s.readData := rfl
@[simp] theorem latchHeader_loadData (h : Header) : (latchHeader h s).loadData = s.loadData := rfl

/-! ## issueCommand -/

@[simp] theorem issueCommand_phase (op : Byte) : (issueCommand op s).phase = .pending := rfl
@[simp] theorem issueCommand_fault (op : Byte) : (issueCommand op s).fault = s.fault := rfl
@[simp] theorem issueCommand_ckState (op : Byte) : (issueCommand op s).ckState = s.ckState := rfl
@[simp] theorem issueCommand_acc (op : Byte) : (issueCommand op s).acc = s.acc := rfl
@[simp] theorem issueCommand_status (op : Byte) : (issueCommand op s).status = statusIssued op := rfl
@[simp] theorem issueCommand_srcAddrLo (op : Byte) : (issueCommand op s).srcAddrLo = s.srcAddrLo := rfl
@[simp] theorem issueCommand_srcAddrHi (op : Byte) : (issueCommand op s).srcAddrHi = s.srcAddrHi := rfl
@[simp] theorem issueCommand_dstAddrLo (op : Byte) : (issueCommand op s).dstAddrLo = s.dstAddrLo := rfl
@[simp] theorem issueCommand_dstAddrHi (op : Byte) : (issueCommand op s).dstAddrHi = s.dstAddrHi := rfl
@[simp] theorem issueCommand_dstOff (op : Byte) : (issueCommand op s).dstOff = s.dstOff := rfl
@[simp] theorem issueCommand_result (op : Byte) : (issueCommand op s).result = s.result := rfl
@[simp] theorem issueCommand_hdrMethod (op : Byte) : (issueCommand op s).hdrMethod = s.hdrMethod := rfl
@[simp] theorem issueCommand_hdrClen (op : Byte) : (issueCommand op s).hdrClen = s.hdrClen := rfl
@[simp] theorem issueCommand_hdrOlen (op : Byte) : (issueCommand op s).hdrOlen = s.hdrOlen := rfl
@[simp] theorem issueCommand_hdrCsum (op : Byte) : (issueCommand op s).hdrCsum = s.hdrCsum := rfl
@[simp] theorem issueCommand_hdrMagic0 (op : Byte) : (issueCommand op s).hdrMagic0 = s.hdrMagic0 := rfl
@[simp] theorem issueCommand_hdrMagic1 (op : Byte) : (issueCommand op s).hdrMagic1 = s.hdrMagic1 := rfl
@[simp] theorem issueCommand_hdrMagic2 (op : Byte) : (issueCommand op s).hdrMagic2 = s.hdrMagic2 := rfl
@[simp] theorem issueCommand_hdrMagic3 (op : Byte) : (issueCommand op s).hdrMagic3 = s.hdrMagic3 := rfl
@[simp] theorem issueCommand_diagExpected (op : Byte) :
    (issueCommand op s).diagExpected = s.diagExpected := rfl
@[simp] theorem issueCommand_diagActual (op : Byte) : (issueCommand op s).diagActual = s.diagActual := rfl
@[simp] theorem issueCommand_cfg (op : Byte) : (issueCommand op s).cfg = s.cfg := rfl
@[simp] theorem issueCommand_mem (op : Byte) : (issueCommand op s).mem = s.mem := rfl
@[simp] theorem issueCommand_srcAdmit (op : Byte) : (issueCommand op s).srcAdmit = s.srcAdmit := rfl
@[simp] theorem issueCommand_dstAdmit (op : Byte) : (issueCommand op s).dstAdmit = s.dstAdmit := rfl
@[simp] theorem issueCommand_commandFault (op : Byte) :
    (issueCommand op s).commandFault = s.commandFault := rfl
@[simp] theorem issueCommand_agenda (op : Byte) : (issueCommand op s).agenda = s.agenda := rfl
@[simp] theorem issueCommand_draws (op : Byte) : (issueCommand op s).draws = s.draws := rfl
@[simp] theorem issueCommand_readData (op : Byte) : (issueCommand op s).readData = s.readData := rfl
@[simp] theorem issueCommand_loadData (op : Byte) : (issueCommand op s).loadData = s.loadData := rfl

/-! ## complete -/

@[simp] theorem complete_phase (code : ErrCode) (r : Word) : (complete code r s).phase = .idle := rfl
@[simp] theorem complete_fault (code : ErrCode) (r : Word) : (complete code r s).fault = s.fault := rfl
@[simp] theorem complete_ckState (code : ErrCode) (r : Word) : (complete code r s).ckState = s.ckState := rfl
@[simp] theorem complete_acc (code : ErrCode) (r : Word) : (complete code r s).acc = s.acc := rfl
@[simp] theorem complete_status (code : ErrCode) (r : Word) :
    (complete code r s).status = statusCompleted code s.status := rfl
@[simp] theorem complete_srcAddrLo (code : ErrCode) (r : Word) :
    (complete code r s).srcAddrLo = s.srcAddrLo := rfl
@[simp] theorem complete_srcAddrHi (code : ErrCode) (r : Word) :
    (complete code r s).srcAddrHi = s.srcAddrHi := rfl
@[simp] theorem complete_dstAddrLo (code : ErrCode) (r : Word) :
    (complete code r s).dstAddrLo = s.dstAddrLo := rfl
@[simp] theorem complete_dstAddrHi (code : ErrCode) (r : Word) :
    (complete code r s).dstAddrHi = s.dstAddrHi := rfl
@[simp] theorem complete_dstOff (code : ErrCode) (r : Word) : (complete code r s).dstOff = s.dstOff := rfl
@[simp] theorem complete_result (code : ErrCode) (r : Word) : (complete code r s).result = r := rfl
@[simp] theorem complete_hdrMethod (code : ErrCode) (r : Word) :
    (complete code r s).hdrMethod = s.hdrMethod := rfl
@[simp] theorem complete_hdrClen (code : ErrCode) (r : Word) : (complete code r s).hdrClen = s.hdrClen := rfl
@[simp] theorem complete_hdrOlen (code : ErrCode) (r : Word) : (complete code r s).hdrOlen = s.hdrOlen := rfl
@[simp] theorem complete_hdrCsum (code : ErrCode) (r : Word) : (complete code r s).hdrCsum = s.hdrCsum := rfl
@[simp] theorem complete_hdrMagic0 (code : ErrCode) (r : Word) :
    (complete code r s).hdrMagic0 = s.hdrMagic0 := rfl
@[simp] theorem complete_hdrMagic1 (code : ErrCode) (r : Word) :
    (complete code r s).hdrMagic1 = s.hdrMagic1 := rfl
@[simp] theorem complete_hdrMagic2 (code : ErrCode) (r : Word) :
    (complete code r s).hdrMagic2 = s.hdrMagic2 := rfl
@[simp] theorem complete_hdrMagic3 (code : ErrCode) (r : Word) :
    (complete code r s).hdrMagic3 = s.hdrMagic3 := rfl
@[simp] theorem complete_diagExpected (code : ErrCode) (r : Word) :
    (complete code r s).diagExpected = s.diagExpected := rfl
@[simp] theorem complete_diagActual (code : ErrCode) (r : Word) :
    (complete code r s).diagActual = s.diagActual := rfl
@[simp] theorem complete_cfg (code : ErrCode) (r : Word) : (complete code r s).cfg = s.cfg := rfl
@[simp] theorem complete_mem (code : ErrCode) (r : Word) : (complete code r s).mem = s.mem := rfl
@[simp] theorem complete_srcAdmit (code : ErrCode) (r : Word) :
    (complete code r s).srcAdmit = s.srcAdmit := rfl
@[simp] theorem complete_dstAdmit (code : ErrCode) (r : Word) :
    (complete code r s).dstAdmit = s.dstAdmit := rfl
@[simp] theorem complete_commandFault (code : ErrCode) (r : Word) :
    (complete code r s).commandFault = s.commandFault := rfl
@[simp] theorem complete_agenda (code : ErrCode) (r : Word) : (complete code r s).agenda = s.agenda := rfl
@[simp] theorem complete_draws (code : ErrCode) (r : Word) : (complete code r s).draws = s.draws := rfl
@[simp] theorem complete_readData (code : ErrCode) (r : Word) :
    (complete code r s).readData = s.readData := rfl
@[simp] theorem complete_loadData (code : ErrCode) (r : Word) :
    (complete code r s).loadData = s.loadData := rfl

/-! ## completeDiag -/

@[simp] theorem completeDiag_phase (code : ErrCode) (r x y : Word) :
    (completeDiag code r x y s).phase = .idle := rfl
@[simp] theorem completeDiag_fault (code : ErrCode) (r x y : Word) :
    (completeDiag code r x y s).fault = s.fault := rfl
@[simp] theorem completeDiag_ckState (code : ErrCode) (r x y : Word) :
    (completeDiag code r x y s).ckState = s.ckState := rfl
@[simp] theorem completeDiag_acc (code : ErrCode) (r x y : Word) :
    (completeDiag code r x y s).acc = s.acc := rfl
@[simp] theorem completeDiag_status (code : ErrCode) (r x y : Word) :
    (completeDiag code r x y s).status = statusCompleted code s.status := rfl
@[simp] theorem completeDiag_srcAddrLo (code : ErrCode) (r x y : Word) :
    (completeDiag code r x y s).srcAddrLo = s.srcAddrLo := rfl
@[simp] theorem completeDiag_srcAddrHi (code : ErrCode) (r x y : Word) :
    (completeDiag code r x y s).srcAddrHi = s.srcAddrHi := rfl
@[simp] theorem completeDiag_dstAddrLo (code : ErrCode) (r x y : Word) :
    (completeDiag code r x y s).dstAddrLo = s.dstAddrLo := rfl
@[simp] theorem completeDiag_dstAddrHi (code : ErrCode) (r x y : Word) :
    (completeDiag code r x y s).dstAddrHi = s.dstAddrHi := rfl
@[simp] theorem completeDiag_dstOff (code : ErrCode) (r x y : Word) :
    (completeDiag code r x y s).dstOff = s.dstOff := rfl
@[simp] theorem completeDiag_result (code : ErrCode) (r x y : Word) :
    (completeDiag code r x y s).result = r := rfl
@[simp] theorem completeDiag_hdrMethod (code : ErrCode) (r x y : Word) :
    (completeDiag code r x y s).hdrMethod = s.hdrMethod := rfl
@[simp] theorem completeDiag_hdrClen (code : ErrCode) (r x y : Word) :
    (completeDiag code r x y s).hdrClen = s.hdrClen := rfl
@[simp] theorem completeDiag_hdrOlen (code : ErrCode) (r x y : Word) :
    (completeDiag code r x y s).hdrOlen = s.hdrOlen := rfl
@[simp] theorem completeDiag_hdrCsum (code : ErrCode) (r x y : Word) :
    (completeDiag code r x y s).hdrCsum = s.hdrCsum := rfl
@[simp] theorem completeDiag_hdrMagic0 (code : ErrCode) (r x y : Word) :
    (completeDiag code r x y s).hdrMagic0 = s.hdrMagic0 := rfl
@[simp] theorem completeDiag_hdrMagic1 (code : ErrCode) (r x y : Word) :
    (completeDiag code r x y s).hdrMagic1 = s.hdrMagic1 := rfl
@[simp] theorem completeDiag_hdrMagic2 (code : ErrCode) (r x y : Word) :
    (completeDiag code r x y s).hdrMagic2 = s.hdrMagic2 := rfl
@[simp] theorem completeDiag_hdrMagic3 (code : ErrCode) (r x y : Word) :
    (completeDiag code r x y s).hdrMagic3 = s.hdrMagic3 := rfl
@[simp] theorem completeDiag_diagExpected (code : ErrCode) (r x y : Word) :
    (completeDiag code r x y s).diagExpected = x := rfl
@[simp] theorem completeDiag_diagActual (code : ErrCode) (r x y : Word) :
    (completeDiag code r x y s).diagActual = y := rfl
@[simp] theorem completeDiag_cfg (code : ErrCode) (r x y : Word) :
    (completeDiag code r x y s).cfg = s.cfg := rfl
@[simp] theorem completeDiag_mem (code : ErrCode) (r x y : Word) :
    (completeDiag code r x y s).mem = s.mem := rfl
@[simp] theorem completeDiag_srcAdmit (code : ErrCode) (r x y : Word) :
    (completeDiag code r x y s).srcAdmit = s.srcAdmit := rfl
@[simp] theorem completeDiag_dstAdmit (code : ErrCode) (r x y : Word) :
    (completeDiag code r x y s).dstAdmit = s.dstAdmit := rfl
@[simp] theorem completeDiag_commandFault (code : ErrCode) (r x y : Word) :
    (completeDiag code r x y s).commandFault = s.commandFault := rfl
@[simp] theorem completeDiag_agenda (code : ErrCode) (r x y : Word) :
    (completeDiag code r x y s).agenda = s.agenda := rfl
@[simp] theorem completeDiag_draws (code : ErrCode) (r x y : Word) :
    (completeDiag code r x y s).draws = s.draws := rfl
@[simp] theorem completeDiag_readData (code : ErrCode) (r x y : Word) :
    (completeDiag code r x y s).readData = s.readData := rfl
@[simp] theorem completeDiag_loadData (code : ErrCode) (r x y : Word) :
    (completeDiag code r x y s).loadData = s.loadData := rfl

/-! ## writeWindow -/

@[simp] theorem writeWindow_phase (bs : List Byte) : (writeWindow bs s).phase = s.phase := rfl
@[simp] theorem writeWindow_fault (bs : List Byte) : (writeWindow bs s).fault = s.fault := rfl
@[simp] theorem writeWindow_ckState (bs : List Byte) : (writeWindow bs s).ckState = s.ckState := rfl
@[simp] theorem writeWindow_acc (bs : List Byte) : (writeWindow bs s).acc = s.acc := rfl
@[simp] theorem writeWindow_status (bs : List Byte) : (writeWindow bs s).status = s.status := rfl
@[simp] theorem writeWindow_srcAddrLo (bs : List Byte) : (writeWindow bs s).srcAddrLo = s.srcAddrLo := rfl
@[simp] theorem writeWindow_srcAddrHi (bs : List Byte) : (writeWindow bs s).srcAddrHi = s.srcAddrHi := rfl
@[simp] theorem writeWindow_dstAddrLo (bs : List Byte) : (writeWindow bs s).dstAddrLo = s.dstAddrLo := rfl
@[simp] theorem writeWindow_dstAddrHi (bs : List Byte) : (writeWindow bs s).dstAddrHi = s.dstAddrHi := rfl
@[simp] theorem writeWindow_dstOff (bs : List Byte) : (writeWindow bs s).dstOff = s.dstOff := rfl
@[simp] theorem writeWindow_result (bs : List Byte) : (writeWindow bs s).result = s.result := rfl
@[simp] theorem writeWindow_hdrMethod (bs : List Byte) : (writeWindow bs s).hdrMethod = s.hdrMethod := rfl
@[simp] theorem writeWindow_hdrClen (bs : List Byte) : (writeWindow bs s).hdrClen = s.hdrClen := rfl
@[simp] theorem writeWindow_hdrOlen (bs : List Byte) : (writeWindow bs s).hdrOlen = s.hdrOlen := rfl
@[simp] theorem writeWindow_hdrCsum (bs : List Byte) : (writeWindow bs s).hdrCsum = s.hdrCsum := rfl
@[simp] theorem writeWindow_hdrMagic0 (bs : List Byte) : (writeWindow bs s).hdrMagic0 = s.hdrMagic0 := rfl
@[simp] theorem writeWindow_hdrMagic1 (bs : List Byte) : (writeWindow bs s).hdrMagic1 = s.hdrMagic1 := rfl
@[simp] theorem writeWindow_hdrMagic2 (bs : List Byte) : (writeWindow bs s).hdrMagic2 = s.hdrMagic2 := rfl
@[simp] theorem writeWindow_hdrMagic3 (bs : List Byte) : (writeWindow bs s).hdrMagic3 = s.hdrMagic3 := rfl
@[simp] theorem writeWindow_diagExpected (bs : List Byte) :
    (writeWindow bs s).diagExpected = s.diagExpected := rfl
@[simp] theorem writeWindow_diagActual (bs : List Byte) : (writeWindow bs s).diagActual = s.diagActual := rfl
@[simp] theorem writeWindow_cfg (bs : List Byte) : (writeWindow bs s).cfg = s.cfg := rfl
@[simp] theorem writeWindow_mem (bs : List Byte) :
    (writeWindow bs s).mem = memWriteBytes s.mem (windowBase s).toNat bs := rfl
@[simp] theorem writeWindow_srcAdmit (bs : List Byte) : (writeWindow bs s).srcAdmit = s.srcAdmit := rfl
@[simp] theorem writeWindow_dstAdmit (bs : List Byte) : (writeWindow bs s).dstAdmit = s.dstAdmit := rfl
@[simp] theorem writeWindow_commandFault (bs : List Byte) :
    (writeWindow bs s).commandFault = s.commandFault := rfl
@[simp] theorem writeWindow_agenda (bs : List Byte) : (writeWindow bs s).agenda = s.agenda := rfl
@[simp] theorem writeWindow_draws (bs : List Byte) : (writeWindow bs s).draws = s.draws := rfl
@[simp] theorem writeWindow_readData (bs : List Byte) : (writeWindow bs s).readData = s.readData := rfl
@[simp] theorem writeWindow_loadData (bs : List Byte) : (writeWindow bs s).loadData = s.loadData := rfl

/-! ## runAccumulator -/

@[simp] theorem runAccumulator_phase (e : Engine) (bs : List Byte) :
    (runAccumulator e bs s).phase = s.phase := rfl
@[simp] theorem runAccumulator_fault (e : Engine) (bs : List Byte) :
    (runAccumulator e bs s).fault = s.fault := rfl
@[simp] theorem runAccumulator_ckState (e : Engine) (bs : List Byte) :
    (runAccumulator e bs s).ckState = .idle := rfl
@[simp] theorem runAccumulator_acc (e : Engine) (bs : List Byte) :
    (runAccumulator e bs s).acc = accUpdate (accReset s.cfg e) bs := rfl
@[simp] theorem runAccumulator_status (e : Engine) (bs : List Byte) :
    (runAccumulator e bs s).status = s.status := rfl
@[simp] theorem runAccumulator_srcAddrLo (e : Engine) (bs : List Byte) :
    (runAccumulator e bs s).srcAddrLo = s.srcAddrLo := rfl
@[simp] theorem runAccumulator_srcAddrHi (e : Engine) (bs : List Byte) :
    (runAccumulator e bs s).srcAddrHi = s.srcAddrHi := rfl
@[simp] theorem runAccumulator_dstAddrLo (e : Engine) (bs : List Byte) :
    (runAccumulator e bs s).dstAddrLo = s.dstAddrLo := rfl
@[simp] theorem runAccumulator_dstAddrHi (e : Engine) (bs : List Byte) :
    (runAccumulator e bs s).dstAddrHi = s.dstAddrHi := rfl
@[simp] theorem runAccumulator_dstOff (e : Engine) (bs : List Byte) :
    (runAccumulator e bs s).dstOff = s.dstOff := rfl
@[simp] theorem runAccumulator_result (e : Engine) (bs : List Byte) :
    (runAccumulator e bs s).result = s.result := rfl
@[simp] theorem runAccumulator_hdrMethod (e : Engine) (bs : List Byte) :
    (runAccumulator e bs s).hdrMethod = s.hdrMethod := rfl
@[simp] theorem runAccumulator_hdrClen (e : Engine) (bs : List Byte) :
    (runAccumulator e bs s).hdrClen = s.hdrClen := rfl
@[simp] theorem runAccumulator_hdrOlen (e : Engine) (bs : List Byte) :
    (runAccumulator e bs s).hdrOlen = s.hdrOlen := rfl
@[simp] theorem runAccumulator_hdrCsum (e : Engine) (bs : List Byte) :
    (runAccumulator e bs s).hdrCsum = s.hdrCsum := rfl
@[simp] theorem runAccumulator_hdrMagic0 (e : Engine) (bs : List Byte) :
    (runAccumulator e bs s).hdrMagic0 = s.hdrMagic0 := rfl
@[simp] theorem runAccumulator_hdrMagic1 (e : Engine) (bs : List Byte) :
    (runAccumulator e bs s).hdrMagic1 = s.hdrMagic1 := rfl
@[simp] theorem runAccumulator_hdrMagic2 (e : Engine) (bs : List Byte) :
    (runAccumulator e bs s).hdrMagic2 = s.hdrMagic2 := rfl
@[simp] theorem runAccumulator_hdrMagic3 (e : Engine) (bs : List Byte) :
    (runAccumulator e bs s).hdrMagic3 = s.hdrMagic3 := rfl
@[simp] theorem runAccumulator_diagExpected (e : Engine) (bs : List Byte) :
    (runAccumulator e bs s).diagExpected = s.diagExpected := rfl
@[simp] theorem runAccumulator_diagActual (e : Engine) (bs : List Byte) :
    (runAccumulator e bs s).diagActual = s.diagActual := rfl
@[simp] theorem runAccumulator_cfg (e : Engine) (bs : List Byte) : (runAccumulator e bs s).cfg = s.cfg := rfl
@[simp] theorem runAccumulator_mem (e : Engine) (bs : List Byte) : (runAccumulator e bs s).mem = s.mem := rfl
@[simp] theorem runAccumulator_srcAdmit (e : Engine) (bs : List Byte) :
    (runAccumulator e bs s).srcAdmit = s.srcAdmit := rfl
@[simp] theorem runAccumulator_dstAdmit (e : Engine) (bs : List Byte) :
    (runAccumulator e bs s).dstAdmit = s.dstAdmit := rfl
@[simp] theorem runAccumulator_commandFault (e : Engine) (bs : List Byte) :
    (runAccumulator e bs s).commandFault = s.commandFault := rfl
@[simp] theorem runAccumulator_agenda (e : Engine) (bs : List Byte) :
    (runAccumulator e bs s).agenda = s.agenda := rfl
@[simp] theorem runAccumulator_draws (e : Engine) (bs : List Byte) :
    (runAccumulator e bs s).draws = s.draws := rfl
@[simp] theorem runAccumulator_readData (e : Engine) (bs : List Byte) :
    (runAccumulator e bs s).readData = s.readData := rfl
@[simp] theorem runAccumulator_loadData (e : Engine) (bs : List Byte) :
    (runAccumulator e bs s).loadData = s.loadData := rfl

/-! ## drawRead -/

@[simp] theorem drawRead_phase : (drawRead s).phase = s.phase := rfl
@[simp] theorem drawRead_fault : (drawRead s).fault = s.fault := rfl
@[simp] theorem drawRead_ckState : (drawRead s).ckState = s.ckState := rfl
@[simp] theorem drawRead_acc : (drawRead s).acc = s.acc := rfl
@[simp] theorem drawRead_status : (drawRead s).status = s.status := rfl
@[simp] theorem drawRead_srcAddrLo : (drawRead s).srcAddrLo = s.srcAddrLo := rfl
@[simp] theorem drawRead_srcAddrHi : (drawRead s).srcAddrHi = s.srcAddrHi := rfl
@[simp] theorem drawRead_dstAddrLo : (drawRead s).dstAddrLo = s.dstAddrLo := rfl
@[simp] theorem drawRead_dstAddrHi : (drawRead s).dstAddrHi = s.dstAddrHi := rfl
@[simp] theorem drawRead_dstOff : (drawRead s).dstOff = s.dstOff := rfl
@[simp] theorem drawRead_result : (drawRead s).result = s.result := rfl
@[simp] theorem drawRead_hdrMethod : (drawRead s).hdrMethod = s.hdrMethod := rfl
@[simp] theorem drawRead_hdrClen : (drawRead s).hdrClen = s.hdrClen := rfl
@[simp] theorem drawRead_hdrOlen : (drawRead s).hdrOlen = s.hdrOlen := rfl
@[simp] theorem drawRead_hdrCsum : (drawRead s).hdrCsum = s.hdrCsum := rfl
@[simp] theorem drawRead_hdrMagic0 : (drawRead s).hdrMagic0 = s.hdrMagic0 := rfl
@[simp] theorem drawRead_hdrMagic1 : (drawRead s).hdrMagic1 = s.hdrMagic1 := rfl
@[simp] theorem drawRead_hdrMagic2 : (drawRead s).hdrMagic2 = s.hdrMagic2 := rfl
@[simp] theorem drawRead_hdrMagic3 : (drawRead s).hdrMagic3 = s.hdrMagic3 := rfl
@[simp] theorem drawRead_diagExpected : (drawRead s).diagExpected = s.diagExpected := rfl
@[simp] theorem drawRead_diagActual : (drawRead s).diagActual = s.diagActual := rfl
@[simp] theorem drawRead_cfg : (drawRead s).cfg = s.cfg := rfl
@[simp] theorem drawRead_mem : (drawRead s).mem = s.mem := rfl
@[simp] theorem drawRead_srcAdmit : (drawRead s).srcAdmit = s.srcAdmit := rfl
@[simp] theorem drawRead_dstAdmit : (drawRead s).dstAdmit = s.dstAdmit := rfl
@[simp] theorem drawRead_commandFault : (drawRead s).commandFault = s.commandFault := rfl
@[simp] theorem drawRead_agenda : (drawRead s).agenda = s.agenda := rfl
@[simp] theorem drawRead_draws : (drawRead s).draws = s.draws + 1 := rfl
@[simp] theorem drawRead_readData : (drawRead s).readData = Config.freeWord s.draws 0 := rfl
@[simp] theorem drawRead_loadData : (drawRead s).loadData = s.loadData := rfl

/-! ## popMove -/

@[simp] theorem popMove_phase : (popMove s).phase = s.phase := rfl
@[simp] theorem popMove_fault : (popMove s).fault = s.fault := rfl
@[simp] theorem popMove_ckState : (popMove s).ckState = s.ckState := rfl
@[simp] theorem popMove_acc : (popMove s).acc = s.acc := rfl
@[simp] theorem popMove_status : (popMove s).status = s.status := rfl
@[simp] theorem popMove_srcAddrLo : (popMove s).srcAddrLo = s.srcAddrLo := rfl
@[simp] theorem popMove_srcAddrHi : (popMove s).srcAddrHi = s.srcAddrHi := rfl
@[simp] theorem popMove_dstAddrLo : (popMove s).dstAddrLo = s.dstAddrLo := rfl
@[simp] theorem popMove_dstAddrHi : (popMove s).dstAddrHi = s.dstAddrHi := rfl
@[simp] theorem popMove_dstOff : (popMove s).dstOff = s.dstOff := rfl
@[simp] theorem popMove_result : (popMove s).result = s.result := rfl
@[simp] theorem popMove_hdrMethod : (popMove s).hdrMethod = s.hdrMethod := rfl
@[simp] theorem popMove_hdrClen : (popMove s).hdrClen = s.hdrClen := rfl
@[simp] theorem popMove_hdrOlen : (popMove s).hdrOlen = s.hdrOlen := rfl
@[simp] theorem popMove_hdrCsum : (popMove s).hdrCsum = s.hdrCsum := rfl
@[simp] theorem popMove_hdrMagic0 : (popMove s).hdrMagic0 = s.hdrMagic0 := rfl
@[simp] theorem popMove_hdrMagic1 : (popMove s).hdrMagic1 = s.hdrMagic1 := rfl
@[simp] theorem popMove_hdrMagic2 : (popMove s).hdrMagic2 = s.hdrMagic2 := rfl
@[simp] theorem popMove_hdrMagic3 : (popMove s).hdrMagic3 = s.hdrMagic3 := rfl
@[simp] theorem popMove_diagExpected : (popMove s).diagExpected = s.diagExpected := rfl
@[simp] theorem popMove_diagActual : (popMove s).diagActual = s.diagActual := rfl
@[simp] theorem popMove_cfg : (popMove s).cfg = s.cfg := rfl
@[simp] theorem popMove_mem : (popMove s).mem = s.mem := rfl
@[simp] theorem popMove_srcAdmit : (popMove s).srcAdmit = s.srcAdmit := rfl
@[simp] theorem popMove_dstAdmit : (popMove s).dstAdmit = s.dstAdmit := rfl
@[simp] theorem popMove_commandFault : (popMove s).commandFault = s.commandFault := rfl
@[simp] theorem popMove_agenda : (popMove s).agenda = s.agenda.tail := rfl
@[simp] theorem popMove_draws : (popMove s).draws = s.draws := rfl
@[simp] theorem popMove_readData : (popMove s).readData = s.readData := rfl
@[simp] theorem popMove_loadData : (popMove s).loadData = s.loadData := rfl

/-! ## setFault -/

@[simp] theorem setFault_phase (c : FaultCause) : (setFault c s).phase = s.phase := rfl
@[simp] theorem setFault_fault (c : FaultCause) : (setFault c s).fault = markFault c s.fault := rfl
@[simp] theorem setFault_ckState (c : FaultCause) : (setFault c s).ckState = s.ckState := rfl
@[simp] theorem setFault_acc (c : FaultCause) : (setFault c s).acc = s.acc := rfl
@[simp] theorem setFault_status (c : FaultCause) : (setFault c s).status = s.status := rfl
@[simp] theorem setFault_srcAddrLo (c : FaultCause) : (setFault c s).srcAddrLo = s.srcAddrLo := rfl
@[simp] theorem setFault_srcAddrHi (c : FaultCause) : (setFault c s).srcAddrHi = s.srcAddrHi := rfl
@[simp] theorem setFault_dstAddrLo (c : FaultCause) : (setFault c s).dstAddrLo = s.dstAddrLo := rfl
@[simp] theorem setFault_dstAddrHi (c : FaultCause) : (setFault c s).dstAddrHi = s.dstAddrHi := rfl
@[simp] theorem setFault_dstOff (c : FaultCause) : (setFault c s).dstOff = s.dstOff := rfl
@[simp] theorem setFault_result (c : FaultCause) : (setFault c s).result = Config.freeWord s.draws 0x1C := rfl
@[simp] theorem setFault_hdrMethod (c : FaultCause) :
    (setFault c s).hdrMethod = Config.freeByte s.draws 0x20 := rfl
@[simp] theorem setFault_hdrClen (c : FaultCause) :
    (setFault c s).hdrClen = Config.freeWord s.draws 0x24 := rfl
@[simp] theorem setFault_hdrOlen (c : FaultCause) :
    (setFault c s).hdrOlen = Config.freeWord s.draws 0x28 := rfl
@[simp] theorem setFault_hdrCsum (c : FaultCause) :
    (setFault c s).hdrCsum = Config.freeWord s.draws 0x2C := rfl
@[simp] theorem setFault_hdrMagic0 (c : FaultCause) :
    (setFault c s).hdrMagic0 = Config.freeWord s.draws 0x50 := rfl
@[simp] theorem setFault_hdrMagic1 (c : FaultCause) :
    (setFault c s).hdrMagic1 = Config.freeWord s.draws 0x54 := rfl
@[simp] theorem setFault_hdrMagic2 (c : FaultCause) :
    (setFault c s).hdrMagic2 = Config.freeWord s.draws 0x58 := rfl
@[simp] theorem setFault_hdrMagic3 (c : FaultCause) :
    (setFault c s).hdrMagic3 = Config.freeWord s.draws 0x5C := rfl
@[simp] theorem setFault_diagExpected (c : FaultCause) :
    (setFault c s).diagExpected = Config.freeWord s.draws 0x30 := rfl
@[simp] theorem setFault_diagActual (c : FaultCause) :
    (setFault c s).diagActual = Config.freeWord s.draws 0x34 := rfl
@[simp] theorem setFault_cfg (c : FaultCause) : (setFault c s).cfg = s.cfg := rfl
@[simp] theorem setFault_mem (c : FaultCause) : (setFault c s).mem = s.mem := rfl
@[simp] theorem setFault_srcAdmit (c : FaultCause) : (setFault c s).srcAdmit = s.srcAdmit := rfl
@[simp] theorem setFault_dstAdmit (c : FaultCause) : (setFault c s).dstAdmit = s.dstAdmit := rfl
@[simp] theorem setFault_commandFault (c : FaultCause) : (setFault c s).commandFault = s.commandFault := rfl
@[simp] theorem setFault_agenda (c : FaultCause) : (setFault c s).agenda = s.agenda := rfl
@[simp] theorem setFault_draws (c : FaultCause) : (setFault c s).draws = s.draws + 1 := rfl
@[simp] theorem setFault_readData (c : FaultCause) : (setFault c s).readData = s.readData := rfl
@[simp] theorem setFault_loadData (c : FaultCause) : (setFault c s).loadData = s.loadData := rfl

/-! ## takeContractFault -/

@[simp] theorem takeContractFault_phase (r : ContractFault) (p : Footprint) :
    (takeContractFault r p s).phase = .pending := rfl
@[simp] theorem takeContractFault_fault (r : ContractFault) (p : Footprint) :
    (takeContractFault r p s).fault = markFault (.contract r) s.fault := rfl
@[simp] theorem takeContractFault_ckState (r : ContractFault) (p : Footprint) :
    (takeContractFault r p s).ckState = s.ckState := rfl
@[simp] theorem takeContractFault_acc (r : ContractFault) (p : Footprint) :
    (takeContractFault r p s).acc = s.acc := rfl
@[simp] theorem takeContractFault_status (r : ContractFault) (p : Footprint) :
    (takeContractFault r p s).status = ⟨true, Config.freeBool s.draws 0, Config.freeBool s.draws 1,
      Config.freeErr s.draws, Config.freeByte s.draws 0⟩ := rfl
@[simp] theorem takeContractFault_srcAddrLo (r : ContractFault) (p : Footprint) :
    (takeContractFault r p s).srcAddrLo = Config.freeWord s.draws 0x08 := rfl
@[simp] theorem takeContractFault_srcAddrHi (r : ContractFault) (p : Footprint) :
    (takeContractFault r p s).srcAddrHi = Config.freeWord s.draws 0x0C := rfl
@[simp] theorem takeContractFault_dstAddrLo (r : ContractFault) (p : Footprint) :
    (takeContractFault r p s).dstAddrLo = Config.freeWord s.draws 0x10 := rfl
@[simp] theorem takeContractFault_dstAddrHi (r : ContractFault) (p : Footprint) :
    (takeContractFault r p s).dstAddrHi = Config.freeWord s.draws 0x14 := rfl
@[simp] theorem takeContractFault_dstOff (r : ContractFault) (p : Footprint) :
    (takeContractFault r p s).dstOff = Config.freeWord s.draws 0x18 := rfl
@[simp] theorem takeContractFault_result (r : ContractFault) (p : Footprint) :
    (takeContractFault r p s).result = Config.freeWord s.draws 0x1C := rfl
@[simp] theorem takeContractFault_hdrMethod (r : ContractFault) (p : Footprint) :
    (takeContractFault r p s).hdrMethod = Config.freeByte s.draws 0x20 := rfl
@[simp] theorem takeContractFault_hdrClen (r : ContractFault) (p : Footprint) :
    (takeContractFault r p s).hdrClen = Config.freeWord s.draws 0x24 := rfl
@[simp] theorem takeContractFault_hdrOlen (r : ContractFault) (p : Footprint) :
    (takeContractFault r p s).hdrOlen = Config.freeWord s.draws 0x28 := rfl
@[simp] theorem takeContractFault_hdrCsum (r : ContractFault) (p : Footprint) :
    (takeContractFault r p s).hdrCsum = Config.freeWord s.draws 0x2C := rfl
@[simp] theorem takeContractFault_hdrMagic0 (r : ContractFault) (p : Footprint) :
    (takeContractFault r p s).hdrMagic0 = Config.freeWord s.draws 0x50 := rfl
@[simp] theorem takeContractFault_hdrMagic1 (r : ContractFault) (p : Footprint) :
    (takeContractFault r p s).hdrMagic1 = Config.freeWord s.draws 0x54 := rfl
@[simp] theorem takeContractFault_hdrMagic2 (r : ContractFault) (p : Footprint) :
    (takeContractFault r p s).hdrMagic2 = Config.freeWord s.draws 0x58 := rfl
@[simp] theorem takeContractFault_hdrMagic3 (r : ContractFault) (p : Footprint) :
    (takeContractFault r p s).hdrMagic3 = Config.freeWord s.draws 0x5C := rfl
@[simp] theorem takeContractFault_diagExpected (r : ContractFault) (p : Footprint) :
    (takeContractFault r p s).diagExpected = Config.freeWord s.draws 0x30 := rfl
@[simp] theorem takeContractFault_diagActual (r : ContractFault) (p : Footprint) :
    (takeContractFault r p s).diagActual = Config.freeWord s.draws 0x34 := rfl
@[simp] theorem takeContractFault_cfg (r : ContractFault) (p : Footprint) :
    (takeContractFault r p s).cfg = s.cfg := rfl
@[simp] theorem takeContractFault_mem (r : ContractFault) (p : Footprint) :
    (takeContractFault r p s).mem = memHavoc s.draws p.writes s.mem := rfl
@[simp] theorem takeContractFault_srcAdmit (r : ContractFault) (p : Footprint) :
    (takeContractFault r p s).srcAdmit = s.srcAdmit := rfl
@[simp] theorem takeContractFault_dstAdmit (r : ContractFault) (p : Footprint) :
    (takeContractFault r p s).dstAdmit = s.dstAdmit := rfl
@[simp] theorem takeContractFault_commandFault (r : ContractFault) (p : Footprint) :
    (takeContractFault r p s).commandFault = endCommand r p s.commandFault := rfl
@[simp] theorem takeContractFault_agenda (r : ContractFault) (p : Footprint) :
    (takeContractFault r p s).agenda = s.agenda := rfl
@[simp] theorem takeContractFault_draws (r : ContractFault) (p : Footprint) :
    (takeContractFault r p s).draws = s.draws + 1 := rfl
@[simp] theorem takeContractFault_readData (r : ContractFault) (p : Footprint) :
    (takeContractFault r p s).readData = s.readData := rfl
@[simp] theorem takeContractFault_loadData (r : ContractFault) (p : Footprint) :
    (takeContractFault r p s).loadData = s.loadData := rfl

/-! ## refuseAccess -/

@[simp] theorem refuseAccess_phase (e : DecodeError) (dir : Dir) :
    (refuseAccess e dir s).phase = s.phase := rfl
@[simp] theorem refuseAccess_fault (e : DecodeError) (dir : Dir) :
    (refuseAccess e dir s).fault = markFault (.refused e) s.fault := rfl
@[simp] theorem refuseAccess_ckState (e : DecodeError) (dir : Dir) :
    (refuseAccess e dir s).ckState = s.ckState := rfl
@[simp] theorem refuseAccess_acc (e : DecodeError) (dir : Dir) : (refuseAccess e dir s).acc = s.acc := rfl
@[simp] theorem refuseAccess_status (e : DecodeError) (dir : Dir) :
    (refuseAccess e dir s).status = s.status := rfl
@[simp] theorem refuseAccess_srcAddrLo (e : DecodeError) (dir : Dir) :
    (refuseAccess e dir s).srcAddrLo = refusedArgument 0x08 s.srcAddrLo s := rfl
@[simp] theorem refuseAccess_srcAddrHi (e : DecodeError) (dir : Dir) :
    (refuseAccess e dir s).srcAddrHi = refusedArgument 0x0C s.srcAddrHi s := rfl
@[simp] theorem refuseAccess_dstAddrLo (e : DecodeError) (dir : Dir) :
    (refuseAccess e dir s).dstAddrLo = refusedArgument 0x10 s.dstAddrLo s := rfl
@[simp] theorem refuseAccess_dstAddrHi (e : DecodeError) (dir : Dir) :
    (refuseAccess e dir s).dstAddrHi = refusedArgument 0x14 s.dstAddrHi s := rfl
@[simp] theorem refuseAccess_dstOff (e : DecodeError) (dir : Dir) :
    (refuseAccess e dir s).dstOff = refusedArgument 0x18 s.dstOff s := rfl
@[simp] theorem refuseAccess_result (e : DecodeError) (dir : Dir) :
    (refuseAccess e dir s).result = Config.freeWord s.draws 0x1C := rfl
@[simp] theorem refuseAccess_hdrMethod (e : DecodeError) (dir : Dir) :
    (refuseAccess e dir s).hdrMethod = Config.freeByte s.draws 0x20 := rfl
@[simp] theorem refuseAccess_hdrClen (e : DecodeError) (dir : Dir) :
    (refuseAccess e dir s).hdrClen = Config.freeWord s.draws 0x24 := rfl
@[simp] theorem refuseAccess_hdrOlen (e : DecodeError) (dir : Dir) :
    (refuseAccess e dir s).hdrOlen = Config.freeWord s.draws 0x28 := rfl
@[simp] theorem refuseAccess_hdrCsum (e : DecodeError) (dir : Dir) :
    (refuseAccess e dir s).hdrCsum = Config.freeWord s.draws 0x2C := rfl
@[simp] theorem refuseAccess_hdrMagic0 (e : DecodeError) (dir : Dir) :
    (refuseAccess e dir s).hdrMagic0 = Config.freeWord s.draws 0x50 := rfl
@[simp] theorem refuseAccess_hdrMagic1 (e : DecodeError) (dir : Dir) :
    (refuseAccess e dir s).hdrMagic1 = Config.freeWord s.draws 0x54 := rfl
@[simp] theorem refuseAccess_hdrMagic2 (e : DecodeError) (dir : Dir) :
    (refuseAccess e dir s).hdrMagic2 = Config.freeWord s.draws 0x58 := rfl
@[simp] theorem refuseAccess_hdrMagic3 (e : DecodeError) (dir : Dir) :
    (refuseAccess e dir s).hdrMagic3 = Config.freeWord s.draws 0x5C := rfl
@[simp] theorem refuseAccess_diagExpected (e : DecodeError) (dir : Dir) :
    (refuseAccess e dir s).diagExpected = Config.freeWord s.draws 0x30 := rfl
@[simp] theorem refuseAccess_diagActual (e : DecodeError) (dir : Dir) :
    (refuseAccess e dir s).diagActual = Config.freeWord s.draws 0x34 := rfl
@[simp] theorem refuseAccess_cfg (e : DecodeError) (dir : Dir) : (refuseAccess e dir s).cfg = s.cfg := rfl
@[simp] theorem refuseAccess_mem (e : DecodeError) (dir : Dir) : (refuseAccess e dir s).mem = s.mem := rfl
@[simp] theorem refuseAccess_srcAdmit (e : DecodeError) (dir : Dir) :
    (refuseAccess e dir s).srcAdmit = s.srcAdmit := rfl
@[simp] theorem refuseAccess_dstAdmit (e : DecodeError) (dir : Dir) :
    (refuseAccess e dir s).dstAdmit = s.dstAdmit := rfl
@[simp] theorem refuseAccess_commandFault (e : DecodeError) (dir : Dir) :
    (refuseAccess e dir s).commandFault = s.commandFault := rfl
@[simp] theorem refuseAccess_agenda (e : DecodeError) (dir : Dir) :
    (refuseAccess e dir s).agenda = s.agenda := rfl
@[simp] theorem refuseAccess_draws (e : DecodeError) (dir : Dir) :
    (refuseAccess e dir s).draws = s.draws + 1 := rfl
@[simp] theorem refuseAccess_readData (e : DecodeError) (dir : Dir) :
    (refuseAccess e dir s).readData = refusedData dir s := rfl
@[simp] theorem refuseAccess_loadData (e : DecodeError) (dir : Dir) :
    (refuseAccess e dir s).loadData = s.loadData := rfl

/-! ## hardwareReset -/

@[simp] theorem hardwareReset_phase (w : Window) : (hardwareReset w s).phase = .idle := rfl
@[simp] theorem hardwareReset_fault (w : Window) : (hardwareReset w s).fault = none := rfl
@[simp] theorem hardwareReset_ckState (w : Window) : (hardwareReset w s).ckState = .idle := rfl
@[simp] theorem hardwareReset_acc (w : Window) : (hardwareReset w s).acc = Acc.atReset := rfl
@[simp] theorem hardwareReset_status (w : Window) : (hardwareReset w s).status = Status.atReset := rfl
@[simp] theorem hardwareReset_srcAddrLo (w : Window) : (hardwareReset w s).srcAddrLo = 0 := rfl
@[simp] theorem hardwareReset_srcAddrHi (w : Window) : (hardwareReset w s).srcAddrHi = 0 := rfl
@[simp] theorem hardwareReset_dstAddrLo (w : Window) : (hardwareReset w s).dstAddrLo = 0 := rfl
@[simp] theorem hardwareReset_dstAddrHi (w : Window) : (hardwareReset w s).dstAddrHi = 0 := rfl
@[simp] theorem hardwareReset_dstOff (w : Window) : (hardwareReset w s).dstOff = 0 := rfl
@[simp] theorem hardwareReset_result (w : Window) : (hardwareReset w s).result = 0 := rfl
@[simp] theorem hardwareReset_hdrMethod (w : Window) : (hardwareReset w s).hdrMethod = 0 := rfl
@[simp] theorem hardwareReset_hdrClen (w : Window) : (hardwareReset w s).hdrClen = 0 := rfl
@[simp] theorem hardwareReset_hdrOlen (w : Window) : (hardwareReset w s).hdrOlen = 0 := rfl
@[simp] theorem hardwareReset_hdrCsum (w : Window) : (hardwareReset w s).hdrCsum = 0 := rfl
@[simp] theorem hardwareReset_hdrMagic0 (w : Window) : (hardwareReset w s).hdrMagic0 = 0 := rfl
@[simp] theorem hardwareReset_hdrMagic1 (w : Window) : (hardwareReset w s).hdrMagic1 = 0 := rfl
@[simp] theorem hardwareReset_hdrMagic2 (w : Window) : (hardwareReset w s).hdrMagic2 = 0 := rfl
@[simp] theorem hardwareReset_hdrMagic3 (w : Window) : (hardwareReset w s).hdrMagic3 = 0 := rfl
@[simp] theorem hardwareReset_diagExpected (w : Window) : (hardwareReset w s).diagExpected = 0 := rfl
@[simp] theorem hardwareReset_diagActual (w : Window) : (hardwareReset w s).diagActual = 0 := rfl
@[simp] theorem hardwareReset_cfg (w : Window) : (hardwareReset w s).cfg = s.cfg := rfl
@[simp] theorem hardwareReset_mem (w : Window) : (hardwareReset w s).mem = memHavoc s.draws w s.mem := rfl
@[simp] theorem hardwareReset_srcAdmit (w : Window) : (hardwareReset w s).srcAdmit = s.srcAdmit := rfl
@[simp] theorem hardwareReset_dstAdmit (w : Window) : (hardwareReset w s).dstAdmit = s.dstAdmit := rfl
@[simp] theorem hardwareReset_commandFault (w : Window) : (hardwareReset w s).commandFault = none := rfl
@[simp] theorem hardwareReset_agenda (w : Window) : (hardwareReset w s).agenda = s.agenda := rfl
@[simp] theorem hardwareReset_draws (w : Window) : (hardwareReset w s).draws = s.draws + 1 := rfl
@[simp] theorem hardwareReset_readData (w : Window) : (hardwareReset w s).readData = s.readData := rfl
@[simp] theorem hardwareReset_loadData (w : Window) : (hardwareReset w s).loadData = s.loadData := rfl

end Sys2Proof.Machine
end

