-- ==== Sys2Proof/Laws/Checks.lean ====
section
/-! SUPPORT. What the contract checks can answer: nothing exactly when the spec's preconditions hold, and
otherwise the reason of the first check that fails. -/

namespace Sys2Proof.Machine

/-- The byte checks pass exactly when every byte is in range and admitted. -/
theorem checkBytes_eq_none {rs : List Region} {oob : ContractFault} {a n : Nat} :
    checkBytes rs oob a n = none ↔ ∀ i < n, ByteReady rs a i := by
  induction n generalizing a with
  | zero => simp [checkBytes]
  | succ n ih =>
    rw [checkBytes]
    constructor
    · intro h
      split_ifs at h with h1 h2
      intro i hi
      cases i with
      | zero => exact ⟨by simpa using h1, by simpa using h2⟩
      | succ i =>
        have := (ih.1 h) i (by omega)
        rwa [ByteReady, show a + 1 + i = a + (i + 1) by omega] at this
    · intro h
      have h0 := h 0 (by omega)
      simp only [ByteReady, Nat.add_zero] at h0
      rw [if_neg (by omega), if_neg (by simp [h0.2])]
      refine ih.2 fun i hi => ?_
      have := h (i + 1) (by omega)
      rwa [ByteReady, show a + (i + 1) = a + 1 + i by omega] at this

/-- The reason a byte fails its check with. -/
def byteFault (rs : List Region) (oob : ContractFault) (a : Nat) : Option ContractFault :=
  if addrSpace ≤ a then some .addressRange
  else if admits rs a = false then some oob
  else none

theorem byteFault_eq_none {rs : List Region} {oob : ContractFault} {a i : Nat} :
    byteFault rs oob (a + i) = none ↔ ByteReady rs a i := by
  simp only [byteFault, ByteReady]
  split_ifs with h1 h2 <;> simp_all

/-- The byte checks answer with the reason of the first byte that fails. -/
theorem checkBytes_first {rs : List Region} {oob r : ContractFault} {a n k : Nat} (hk : k < n)
    (hbefore : ∀ i < k, ByteReady rs a i) (hat : byteFault rs oob (a + k) = some r) :
    checkBytes rs oob a n = some r := by
  induction n generalizing a k with
  | zero => omega
  | succ n ih =>
    rw [checkBytes]
    cases k with
    | zero =>
      simp only [byteFault, Nat.add_zero] at hat
      split_ifs at hat with h1 h2
      · rw [if_pos h1, hat]
      · rw [if_neg h1, if_pos h2, hat]
    | succ k =>
      have h0 := hbefore 0 (by omega)
      simp only [ByteReady, Nat.add_zero] at h0
      rw [if_neg (by omega), if_neg (by simp [h0.2])]
      refine ih (k := k) (by omega) (fun i hi => ?_) ?_
      · have := hbefore (i + 1) (by omega)
        rwa [ByteReady, show a + (i + 1) = a + 1 + i by omega] at this
      · rwa [show a + 1 + k = a + (k + 1) by omega]

/-- The byte checks answer only with AddressRange or the reason they were given. -/
theorem checkBytes_reasons {rs : List Region} {oob r : ContractFault} {a n : Nat}
    (h : checkBytes rs oob a n = some r) : r = .addressRange ∨ r = oob := by
  induction n generalizing a with
  | zero => simp [checkBytes] at h
  | succ n ih =>
    rw [checkBytes] at h
    split_ifs at h
    · simp_all
    · simp_all
    · exact ih h

/-- CheckHeader passes exactly when the header is ready (40_header_parser.md R121). -/
theorem checkHeader_eq_none {s : State} : checkHeader s = none ↔ HeaderReady s :=
  checkBytes_eq_none

/-- Two runs meet unless one is empty or they lie apart. -/
theorem meets_eq_false {a n : Nat} {r : Region} :
    meets a n r = false ↔ n = 0 ∨ r.size = 0 ∨ r.base + r.size ≤ a ∨ a + n ≤ r.base := by
  simp only [meets, Bool.and_eq_false_iff, decide_eq_false_iff_not]
  omega

theorem footprint_meets {cls : MethodClass} {f : Fields} {s : State} :
    meets (windowBase s).toNat f.olen.toNat (footprintOf cls f s) = false ↔ WindowApart cls f s := by
  simp only [meets_eq_false, footprintOf, Config.headerLen, WindowApart]
  omega

/-- CheckDestination, its checks in order (41_dispatch.md R147). -/
theorem checkDestination_eq (cls : MethodClass) (f : Fields) (s : State) :
    checkDestination cls f s =
      if dstOffset s < 0 then some .negativeOffset
      else if f.olen.toInt < 0 then some .negativeLength
      else if cls ≠ .raw ∧ f.clen.toInt < 0 then some .negativeLength
      else
        ((checkBytes s.dstAdmit .dstOutOfBounds (windowBase s).toNat f.olen.toNat).or
          ((checkBytes s.srcAdmit .srcOutOfBounds (srcAddr s) (s.cfg.headerLen + payloadLen cls f)).or
            (if WindowApart cls f s then none else some .overlap))) := by
  have hov : (if meets (windowBase s).toNat f.olen.toNat (footprintOf cls f s) = true then
        some ContractFault.overlap else none) =
      if WindowApart cls f s then none else some .overlap := by
    by_cases h : WindowApart cls f s
    · simp [h, footprint_meets.2 h]
    · rw [if_neg h, if_pos]
      by_contra hc
      exact h (footprint_meets.1 (by simpa using hc))
  unfold checkDestination
  rw [hov]
  split_ifs with h1 h2 h3 h4 <;> try rfl
  all_goals
    simp only [footprintOf]
    cases checkBytes s.dstAdmit .dstOutOfBounds (windowBase s).toNat f.olen.toNat <;>
    cases checkBytes s.srcAdmit .srcOutOfBounds (srcAddr s) (s.cfg.headerLen + payloadLen cls f) <;> rfl

/-- CheckDestination passes exactly when the path is ready (41_dispatch.md R147). -/
theorem checkDestination_eq_none {cls : MethodClass} {f : Fields} {s : State} :
    checkDestination cls f s = none ↔ PathReady cls f s := by
  rw [checkDestination_eq]
  constructor
  · intro h
    split_ifs at h with h1 h2 h3 h4
    · simp only [Option.or_eq_none_iff, checkBytes_eq_none] at h
      refine ⟨⟨by omega, by omega, fun hc => ?_⟩, h.1, h.2.1, h4⟩
      by_contra hn
      exact h3 ⟨hc, by omega⟩
    · simp at h
  · rintro ⟨⟨h1, h2, h3⟩, h4, h5, h6⟩
    rw [if_neg (by omega), if_neg (by omega), if_neg fun h => ?_, checkBytes_eq_none.2 h4,
      checkBytes_eq_none.2 h5, if_pos h6]
    · rfl
    · have := h3 h.1
      omega

end Sys2Proof.Machine
end

