-- ==== Sys2Proof/Laws/Decode.lean ====
section
/-! SUPPORT. What the decoder can answer, form by form, and the byte order of the integers. -/

namespace Sys2Proof

/-- The four bytes of a word, read little-endian, are the word. -/
theorem le32_wordBytes (w : Word) :
    le32 (wordByte w 0) (wordByte w 1) (wordByte w 2) (wordByte w 3) = w := by
  refine BitVec.eq_of_getLsbD_eq fun i hi => ?_
  simp only [le32, wordByte, BitVec.getLsbD_or, BitVec.getLsbD_setWidth, BitVec.getLsbD_shiftLeft,
    BitVec.getLsbD_ushiftRight]
  interval_cases i <;> simp

/-- Each byte of a little-endian word is the byte it was made of. -/
theorem wordByte_le32 (b0 b1 b2 b3 : Byte) :
    wordByte (le32 b0 b1 b2 b3) 0 = b0 ∧ wordByte (le32 b0 b1 b2 b3) 1 = b1 ∧
      wordByte (le32 b0 b1 b2 b3) 2 = b2 ∧ wordByte (le32 b0 b1 b2 b3) 3 = b3 := by
  simp only [le32, wordByte]
  refine ⟨?_, ?_, ?_, ?_⟩ <;>
  · refine BitVec.eq_of_getLsbD_eq fun i hi => ?_
    simp only [BitVec.getLsbD_or, BitVec.getLsbD_setWidth, BitVec.getLsbD_shiftLeft,
      BitVec.getLsbD_ushiftRight]
    interval_cases i <;> simp

theorem wordBytes_length (w : Word) : (wordBytes w).length = 4 := rfl

theorem encodeHeader_length (m : Byte) (f : Fields) : (encodeHeader m f).length = f.magic.length + 13 := by
  simp [encodeHeader, wordBytes_length]

/-- The classes, by the method byte (41_dispatch.md R140). -/
theorem classify_eq (c : Config) (m : Byte) :
    (classify c m = .raw ↔ m = c.codeRaw) ∧
      (classify c m = .a ↔ m = c.codeA ∧ c.accepts .a = true) ∧
      (classify c m = .b ↔ m = c.codeB ∧ c.accepts .b = true) ∧
      (classify c m = .other ↔ c.rejects m = true) := by
  have h1 := c.raw_ne_a
  have h2 := c.raw_ne_b
  have h3 := c.a_ne_b
  simp only [classify, Config.rejects]
  refine ⟨?_, ?_, ?_, ?_⟩ <;> split_ifs with a b d <;> simp_all [← Bool.not_eq_true]
  tauto

/-- The decoder of a method byte gives the row of its class. -/
theorem methodInstr_cases (c : Config) (h : Header) :
    classify c h.method = .raw ∧ methodInstr c h = .methodRaw h.fields ∨
      classify c h.method = .a ∧ methodInstr c h = .methodAlgoA h.fields ∨
      classify c h.method = .b ∧ methodInstr c h = .methodAlgoB h.fields ∨
      classify c h.method = .other ∧ methodInstr c h = .methodOther h.method h.fields := by
  unfold methodInstr
  cases classify c h.method <;> simp

/-- The header fields of a string long enough hold a magic of M bytes. -/
theorem headerOf_magic_length {c : Config} {bs : List Byte} (h : c.headerLen ≤ bs.length) :
    (headerOf c bs).fields.magic.length = c.magicLen := by
  simp only [headerOf, List.length_take, Config.headerLen] at *
  omega

theorem methodInstr_wf {c : Config} {h : Header} (hm : h.fields.magic.length = c.magicLen) :
    (methodInstr c h).wf c = true := by
  obtain ⟨-, ha, hb, ho⟩ := classify_eq c h.method
  rcases methodInstr_cases c h with ⟨h1, h2⟩ | ⟨h1, h2⟩ | ⟨h1, h2⟩ | ⟨h1, h2⟩ <;>
    simp_all [Instr.wf, Fields.wf]

/-- A command word is one of the three commands. -/
theorem decodeCmd_cases (w : Word) :
    w.setWidth 8 = 0x01#8 ∧ decodeCmd w = .getOriginalLen ∨
      w.setWidth 8 = 0x02#8 ∧ decodeCmd w = .decompress ∨
      w.setWidth 8 ≠ 0x01#8 ∧ w.setWidth 8 ≠ 0x02#8 ∧ decodeCmd w = .badCommand (w.setWidth 8) := by
  by_cases h1 : w.setWidth 8 = 0x01#8
  · exact .inl ⟨h1, by simp [decodeCmd, h1]⟩
  by_cases h2 : w.setWidth 8 = 0x02#8
  · exact .inr (.inl ⟨h2, by simp [decodeCmd, h2]⟩)
  · exact .inr (.inr ⟨h1, h2, by simp [decodeCmd, h1, h2]⟩)

theorem decodeCmd_wf (c : Config) (w : Word) : (decodeCmd w).wf c = true := by
  simp only [decodeCmd]
  split_ifs <;> simp_all [Instr.wf]

theorem writeInstr_wf (c : Config) (off : Byte) (data : Word) (h : off.toNat % 4 = 0) :
    (writeInstr off data).wf c = true := by
  simp only [writeInstr]
  split_ifs <;> simp_all [Instr.wf, offsetAligned, writeOffsets]

/-- What the bus decoder accepts: aligned 32-bit accesses inside the window (30_encoding.md R101). -/
theorem decodeBus_ok {a : BusAccess} {i : Instr} (h : decodeBus a = .ok i) :
    a.width = 32 ∧ a.off < 0x100 ∧ a.off % 4 = 0 ∧
      (a.dir = .read ∧ i = .regRead (BitVec.ofNat 8 a.off) ∨
        a.dir = .write ∧ i = writeInstr (BitVec.ofNat 8 a.off) a.data) := by
  simp only [decodeBus] at h
  split_ifs at h with h1 h2 h3
  refine ⟨not_not.1 h1, by omega, by omega, ?_⟩
  cases hd : a.dir <;> simp_all

/-- What the decoder gives is well-formed. -/
theorem decode_wf {c : Config} {e : Encoded} {i : Instr} (h : decode c e = .ok i) : i.wf c = true := by
  cases e with
  | cmdw w =>
    obtain rfl : decodeCmd w = i := by simpa [decode] using h
    exact decodeCmd_wf c w
  | header bs =>
    simp only [decode, decodeHeader] at h
    split_ifs at h with hl
    · simp [Except.map] at h
    · obtain rfl : methodInstr c (headerOf c bs) = i := by simpa [Except.map] using h
      exact methodInstr_wf (headerOf_magic_length (by omega))
  | bus a =>
    obtain ⟨-, ho, ha, ⟨-, rfl⟩ | ⟨-, rfl⟩⟩ := decodeBus_ok h
    · simp only [Instr.wf, offsetAligned, BitVec.toNat_ofNat, beq_iff_eq]
      omega
    · refine writeInstr_wf c _ _ ?_
      simp only [BitVec.toNat_ofNat]
      omega

end Sys2Proof
end

