-- ==== Sys2Proof/Laws/Memory.lean ====
section
/-! SUPPORT. The laws of host memory: what a read sees after a write, and that every memory operation
keeps the canonical form and stays in the address space. -/

namespace Sys2Proof.Machine

/-! ## One byte -/

theorem memRead_eq_unlisted_of_lt {m : Memory} {a : Nat} (h : ∀ x ∈ m, a < x.1) :
    memRead m a = unlistedByte := by
  induction m with
  | nil => rfl
  | cons x rest ih =>
    have hx := h x (by simp)
    rw [memRead, if_neg (by omega)]
    exact ih fun y hy => h y (by simp [hy])

/-- A read after a write to another place sees what stood there. -/
theorem memRead_memWrite_other {a a' : Nat} (h : a' ≠ a) (m : Memory) (b : Byte) :
    memRead (memWrite m a b) a' = memRead m a' := by
  induction m with
  | nil => by_cases hb : b = unlistedByte <;> simp [memWrite, memRead, hb, h]
  | cons x rest ih =>
    obtain ⟨c, v⟩ := x
    simp only [memWrite]
    split_ifs <;> simp_all [memRead]

/-- A read after a write to the same place gives the byte written. -/
theorem memRead_memWrite_same {m : Memory} (hm : m.wf) (a : Nat) (b : Byte) :
    memRead (memWrite m a b) a = b := by
  induction m with
  | nil => by_cases hb : b = unlistedByte <;> simp [memWrite, memRead, hb]
  | cons x rest ih =>
    obtain ⟨c, v⟩ := x
    obtain ⟨hs, hv⟩ := hm
    rw [List.pairwise_cons] at hs
    have hrest : Memory.wf rest := ⟨hs.2, fun y hy => hv y (by simp [hy])⟩
    simp only [memWrite]
    split_ifs with h1 h2 h3 h4
    · subst h2
      exact memRead_eq_unlisted_of_lt fun y hy => by
        rcases List.mem_cons.1 hy with rfl | hy
        · exact h1
        · exact Nat.lt_trans h1 (hs.1 y hy)
    · simp [memRead]
    · subst h4 h3
      exact memRead_eq_unlisted_of_lt fun y hy => hs.1 y hy
    · simp [memRead]
    · rw [memRead, if_neg h3]
      exact ih hrest

/-- Every entry of a memory after a write is the byte written, or an entry from before. -/
theorem mem_of_mem_memWrite {m : Memory} {a : Nat} {b : Byte} {x : Host.Cell} (h : x ∈ memWrite m a b) :
    x = (a, b) ∧ b ≠ unlistedByte ∨ x ∈ m := by
  induction m with
  | nil => by_cases hb : b = unlistedByte <;> simp_all [memWrite]
  | cons y rest ih =>
    obtain ⟨c, v⟩ := y
    simp only [memWrite] at h
    split_ifs at h with h1 h2 h3 h4
    · exact .inr h
    · rcases List.mem_cons.1 h with h | h
      · exact .inl ⟨h, h2⟩
      · exact .inr h
    · exact .inr (List.mem_cons_of_mem _ h)
    · rcases List.mem_cons.1 h with h | h
      · exact .inl ⟨h, h4⟩
      · exact .inr (List.mem_cons_of_mem _ h)
    · rcases List.mem_cons.1 h with h | h
      · exact .inr (h ▸ List.mem_cons_self)
      · exact (ih h).imp_right (List.mem_cons_of_mem _)

/-- A write keeps the canonical form. -/
theorem memWrite_wf {m : Memory} (hm : m.wf) (a : Nat) (b : Byte) : Memory.wf (memWrite m a b) := by
  refine ⟨?_, fun x hx => ?_⟩
  · obtain ⟨hs, -⟩ := hm
    induction m with
    | nil => by_cases hb : b = unlistedByte <;> simp [memWrite, hb]
    | cons y rest ih =>
      obtain ⟨c, v⟩ := y
      have hs' := List.pairwise_cons.1 hs
      simp only [memWrite]
      split_ifs with h1 h2 h3 h4
      · exact hs
      · refine List.pairwise_cons.2 ⟨fun z hz => ?_, hs⟩
        rcases List.mem_cons.1 hz with rfl | hz
        · exact h1
        · exact Nat.lt_trans h1 (hs'.1 z hz)
      · exact hs'.2
      · exact List.pairwise_cons.2 ⟨fun z hz => h3 ▸ hs'.1 z hz, hs'.2⟩
      · refine List.pairwise_cons.2 ⟨fun z hz => ?_, ih hs'.2⟩
        rcases mem_of_mem_memWrite hz with ⟨rfl, -⟩ | hz
        · show c < a
          omega
        · exact hs'.1 z hz
  · rcases mem_of_mem_memWrite hx with ⟨rfl, hb⟩ | hx
    · exact hb
    · exact hm.2 x hx

/-- A write inside the address space stays inside. -/
theorem memWrite_inSpace {m : Memory} (hm : m.inSpace) {a : Nat} (ha : a < addrSpace) (b : Byte) :
    Memory.inSpace (memWrite m a b) := fun x hx => by
  rcases mem_of_mem_memWrite hx with ⟨rfl, -⟩ | hx
  · exact ha
  · exact hm x hx

/-! ## Runs of bytes -/

theorem memReadBytes_length (m : Memory) (a n : Nat) : (memReadBytes m a n).length = n := by
  induction n generalizing a with
  | zero => rfl
  | succ n ih => simp [memReadBytes, ih]

/-- Byte i of a run read is the byte at that place. -/
theorem byteAt_memReadBytes {i n : Nat} (h : i < n) (m : Memory) (a : Nat) :
    (memReadBytes m a n).getD i 0 = memRead m (a + i) := by
  induction n generalizing a i with
  | zero => omega
  | succ n ih =>
    cases i with
    | zero => simp [memReadBytes]
    | succ i =>
      simp only [memReadBytes, List.getD_cons_succ]
      rw [ih (by omega), show a + 1 + i = a + (i + 1) by omega]

/-- Two runs are equal when they agree place by place. -/
theorem memReadBytes_congr {m m' : Memory} {a a' n : Nat}
    (h : ∀ i < n, memRead m (a + i) = memRead m' (a' + i)) : memReadBytes m a n = memReadBytes m' a' n := by
  induction n generalizing a a' with
  | zero => rfl
  | succ n ih =>
    have h0 := h 0 (by omega)
    simp only [Nat.add_zero] at h0
    simp only [memReadBytes, h0]
    rw [ih fun i hi => ?_]
    have := h (i + 1) (by omega)
    rwa [show a + (i + 1) = a + 1 + i by omega, show a' + (i + 1) = a' + 1 + i by omega] at this

/-- A run of n + k bytes is a run of n and a run of k. -/
theorem memReadBytes_add (m : Memory) (a n k : Nat) :
    memReadBytes m a (n + k) = memReadBytes m a n ++ memReadBytes m (a + n) k := by
  induction n generalizing a with
  | zero => simp [memReadBytes]
  | succ n ih =>
    rw [show n + 1 + k = (n + k) + 1 by omega]
    simp only [memReadBytes, List.cons_append]
    rw [ih, show a + 1 + n = a + (n + 1) by omega]

/-- Writing a run leaves every place outside it alone. -/
theorem memRead_memWriteBytes_other {a' : Nat} (bs : List Byte) (m : Memory) (a : Nat)
    (h : a' < a ∨ a + bs.length ≤ a') : memRead (memWriteBytes m a bs) a' = memRead m a' := by
  induction bs generalizing m a with
  | nil => rfl
  | cons b bs ih =>
    simp only [List.length_cons] at h
    rw [memWriteBytes, ih _ _ (by omega), memRead_memWrite_other (by omega)]

/-- Writing a run keeps the canonical form. -/
theorem memWriteBytes_wf {m : Memory} (hm : m.wf) (a : Nat) (bs : List Byte) :
    Memory.wf (memWriteBytes m a bs) := by
  induction bs generalizing m a with
  | nil => exact hm
  | cons b bs ih => exact ih (memWrite_wf hm a b) _

/-- Writing a run inside the address space stays inside. -/
theorem memWriteBytes_inSpace {m : Memory} (hm : m.inSpace) (a : Nat) (bs : List Byte)
    (h : ∀ i < bs.length, a + i < addrSpace) : Memory.inSpace (memWriteBytes m a bs) := by
  induction bs generalizing m a with
  | nil => exact hm
  | cons b bs ih =>
    refine ih (memWrite_inSpace hm (by simpa using h 0 (by simp)) b) (a + 1) fun i hi => ?_
    have := h (i + 1) (by simpa using hi)
    omega

/-- Reading back a run that was written gives its bytes. -/
theorem memReadBytes_memWriteBytes {m : Memory} (hm : m.wf) (a : Nat) (bs : List Byte) :
    memReadBytes (memWriteBytes m a bs) a bs.length = bs := by
  induction bs generalizing m a with
  | nil => rfl
  | cons b bs ih =>
    simp only [memWriteBytes, List.length_cons, memReadBytes]
    rw [ih (memWrite_wf hm a b), memRead_memWriteBytes_other _ _ _ (by omega), memRead_memWrite_same hm]

/-! ## Windows of any value -/

theorem freeBytes_length (d a n : Nat) : (freeBytes d a n).length = n := by
  induction n generalizing a with
  | zero => rfl
  | succ n ih => simp [freeBytes, ih]

theorem Window.covers_eq_true {w : Window} {a : Nat} : w.covers a = true ↔ w.lo ≤ a ∧ a < w.hi := by
  simp [Window.covers]

theorem Window.covers_eq_false {w : Window} {a : Nat} : w.covers a = false ↔ a < w.lo ∨ w.hi ≤ a := by
  simp only [Window.covers, Bool.and_eq_false_iff, decide_eq_false_iff_not]
  omega

@[simp] theorem Window.covers_empty (a : Nat) : Window.empty.covers a = false := by
  simp [Window.covers_eq_false, Window.empty, Window.hi]

/-- Giving a window any value leaves every byte outside it alone. -/
theorem memRead_memHavoc_outside {w : Window} {a : Nat} (h : w.covers a = false) (d : Nat) (m : Memory) :
    memRead (memHavoc d w m) a = memRead m a := by
  rw [Window.covers_eq_false] at h
  refine memRead_memWriteBytes_other _ _ _ ?_
  rw [freeBytes_length]
  omega

theorem memHavoc_wf {m : Memory} (hm : m.wf) (d : Nat) (w : Window) : Memory.wf (memHavoc d w m) :=
  memWriteBytes_wf hm _ _

theorem memHavoc_inSpace {m : Memory} (hm : m.inSpace) (d : Nat) (w : Window) :
    Memory.inSpace (memHavoc d w m) := by
  refine memWriteBytes_inSpace hm _ _ fun i hi => ?_
  rw [freeBytes_length] at hi
  have : w.hi ≤ addrSpace := Nat.min_le_right _ _
  omega

@[simp] theorem memHavoc_empty (d : Nat) (m : Memory) : memHavoc d Window.empty m = m := by
  simp [memHavoc, Window.empty, Window.hi, Window.lo, freeBytes, memWriteBytes]

end Sys2Proof.Machine
end

