-- ==== Sys2Proof/Laws/Method.lean ====
section
/-! SUPPORT. What the shared operations of the command paths do, said once: the contract fault, the
register writes, the checksum step and the dispatch. -/

namespace Sys2Proof.Machine

/-! ## The bytes of the command in progress -/

theorem Region.covers_eq_true {r : Region} {a : Nat} : r.covers a = true ↔ r.base ≤ a ∧ a < r.base + r.size := by
  simp [Region.covers]

theorem Region.covers_eq_false {r : Region} {a : Nat} :
    r.covers a = false ↔ a < r.base ∨ r.base + r.size ≤ a := by
  rw [← Bool.not_eq_true, Region.covers_eq_true]
  omega

@[simp] theorem lengthFootprint_writes (s : State) : (lengthFootprint s).writes = Window.empty := rfl
@[simp] theorem decompressFootprint_writes (cls : MethodClass) (f : Fields) (s : State) :
    (decompressFootprint cls f s).writes = windowOf f s := rfl
@[simp] theorem headerFootprint_writes (s : State) :
    (headerFootprint s).writes = windowOf (parseHeader s).fields s := rfl
@[simp] theorem decompressFootprint_latchHeader (cls : MethodClass) (f : Fields) (h : Header) (s : State) :
    decompressFootprint cls f (latchHeader h s) = decompressFootprint cls f s := rfl

theorem pendingFootprint_idle {s : State} (h : s.phase = .idle) : pendingFootprint s = Footprint.empty := by
  simp [pendingFootprint, h]

theorem pendingReads_idle {s : State} (h : s.phase = .idle) : pendingReads s = { base := 0, size := 0 } := by
  simp [pendingReads, pendingFootprint_idle h, Footprint.empty]

theorem pendingWindow_idle {s : State} (h : s.phase = .idle) : pendingWindow s = Window.empty := by
  simp [pendingWindow, pendingFootprint_idle h, Footprint.empty]

theorem pendingFootprint_issued {s : State} (h : s.phase = .pending) (hf : s.commandFault = none) :
    pendingFootprint s = issuedFootprint s := by
  simp [pendingFootprint, h, hf]

theorem pendingFootprint_kept {s : State} {e : CommandFault} (h : s.phase = .pending)
    (hf : s.commandFault = some e) : pendingFootprint s = e.footprint := by
  simp [pendingFootprint, h, hf]

/-! ## The fault mark -/

theorem markFault_eq (c : FaultCause) (old : Option FaultCause) :
    markFault c old = some (old.getD c) := by
  cases old <;> rfl

theorem endCommand_eq (r : ContractFault) (p : Footprint) (old : Option CommandFault) :
    endCommand r p old = some (old.getD ⟨r, p⟩) := by
  cases old <;> rfl

theorem refusedArgument_pending {s : State} (h : s.phase = .pending) (off : Nat) (w : Word) :
    refusedArgument off w s = w := by
  simp [refusedArgument, h]

theorem takeContractFault_spec (r : ContractFault) (p : Footprint) (s : State) :
    TakesContractFault r p.writes s (takeContractFault r p s) where
  mark := markFault_eq _ s.fault
  ended := ⟨_, endCommand_eq r p s.commandFault, fun h => by rw [h]; exact ⟨rfl, rfl⟩⟩
  busy := rfl
  phase := rfl
  launch := ⟨rfl, rfl, rfl⟩
  host := ⟨rfl, rfl, rfl⟩
  memory := fun _ ha => memRead_memHavoc_outside ha _ _

theorem refuseAccess_spec (e : DecodeError) (dir : Dir) (s : State) :
    RefusesAccess e dir s (refuseAccess e dir s) where
  mark := markFault_eq _ s.fault
  phase := rfl
  status := rfl
  arguments := fun h => by constructor <;> simp [refusedArgument_pending h]
  commandFault := rfl
  memory := rfl
  acc := rfl
  ckState := rfl
  launch := ⟨rfl, rfl, rfl⟩
  agenda := rfl
  loadData := rfl
  readData := fun h => by subst h; rfl

/-- Two states with the same registers of the command in progress, build and memory give it the same bytes. -/
theorem pendingFootprint_congr {s t : State} (hp : t.phase = s.phase) (hc : t.commandFault = s.commandFault)
    (hl : t.status.lastOp = s.status.lastOp) (ha : SameArguments s t) (hm : t.mem = s.mem)
    (hb : t.cfg = s.cfg) : pendingFootprint t = pendingFootprint s := by
  obtain ⟨h1, h2, h3, h4, h5⟩ := ha
  have hs : srcAddr t = srcAddr s := by simp [srcAddr, h1, h2]
  have hh : parseHeader t = parseHeader s := by simp [parseHeader, readField, hs, hm, hb]
  simp [pendingFootprint, issuedFootprint, headerFootprint, decompressFootprint, footprintOf, windowOf,
    lengthFootprint, windowBase, dstAddr, dstOffset, hp, hc, hl, hs, hh, hb, h3, h4, h5]

/-- A refused access leaves the command in progress the bytes it had. -/
theorem refuseAccess_pendingFootprint (e : DecodeError) (dir : Dir) (s : State) :
    pendingFootprint (refuseAccess e dir s) = pendingFootprint s := by
  cases hp : s.phase with
  | idle => rw [pendingFootprint_idle hp, pendingFootprint_idle (by simpa using hp)]
  | pending =>
    have h := refuseAccess_spec e dir s
    exact pendingFootprint_congr h.phase h.commandFault (by rw [h.status]) (h.arguments hp) h.memory h.launch.cfg

/-- A register read returns a value, or is refused at a misaligned offset. -/
theorem execRegRead_cases (off : Byte) (s : State) :
    (off.toNat % 4 = 0 ∧ ∃ (v : Word) (n : Nat),
      execRegRead off s = .next { s with readData := v, draws := n }) ∨
    off.toNat % 4 ≠ 0 ∧ execRegRead off s = .next (refuseAccess .misaligned .read s) := by
  unfold execRegRead
  by_cases h : off.toNat % 4 = 0
  · rw [if_neg (by omega)]
    split_ifs
    · exact .inl ⟨h, _, _, rfl⟩
    · exact .inl ⟨h, _, s.draws, rfl⟩
  · rw [if_pos h]
    exact .inr ⟨h, rfl⟩

/-! ## Register writes -/

/-- A register write has its effect in IDLE and is ContractFault(BusyWrite) while PENDING. -/
theorem whenIdle_cases (s after : State) :
    s.phase = .idle ∧ whenIdle s after = .next after ∨
      s.phase = .pending ∧ whenIdle s after = .next (takeContractFault .busyWrite (pendingFootprint s) s) := by
  unfold whenIdle
  cases h : s.phase <;> simp

theorem whenIdle_idle {s : State} (h : s.phase = .idle) (after : State) : whenIdle s after = .next after := by
  simp [whenIdle, h]

theorem whenIdle_pending {s : State} (h : s.phase = .pending) (after : State) :
    whenIdle s after = .next (takeContractFault .busyWrite (pendingFootprint s) s) := by
  simp [whenIdle, h]

/-! ## The paths -/

/-- A path goes on when its preconditions hold. -/
theorem whenDestinationOk_ready {cls : MethodClass} {f : Fields} {s : State} (h : PathReady cls f s)
    (after : State) : whenDestinationOk cls f s after = .next after := by
  simp [whenDestinationOk, checkDestination_eq_none.2 h]

/-- A path either goes on, its preconditions holding, or takes the contract fault of the first check that
fails. -/
theorem whenDestinationOk_cases (cls : MethodClass) (f : Fields) (s after : State) :
    PathReady cls f s ∧ whenDestinationOk cls f s after = .next after ∨
      ∃ r, checkDestination cls f s = some r ∧
        whenDestinationOk cls f s after = .next (takeContractFault r (decompressFootprint cls f s) s) := by
  unfold whenDestinationOk
  cases h : checkDestination cls f s with
  | none => exact .inl ⟨checkDestination_eq_none.1 h, rfl⟩
  | some r => exact .inr ⟨r, rfl, rfl⟩

/-- The window of a ready path is the bytes from its base, as many as original_len says. -/
theorem windowOf_covers {f : Fields} {s : State} (h0 : 0 ≤ dstOffset s) (hw : WindowReady f s)
    (hl : 0 ≤ f.olen.toInt) (a : Nat) :
    (windowOf f s).covers a = true ↔ (windowBase s).toNat ≤ a ∧ a < (windowBase s).toNat + f.olen.toNat := by
  have hn : f.olen.toInt.toNat = f.olen.toNat := by
    have := BitVec.toInt_eq_toNat_cond f.olen
    split_ifs at this <;> omega
  have hb : 0 ≤ windowBase s := by unfold windowBase; omega
  simp only [Window.covers_eq_true, Window.lo, Window.hi, windowOf, hn]
  constructor
  · rintro ⟨h1, h2⟩
    exact ⟨h1, by omega⟩
  · rintro ⟨h1, h2⟩
    have := (hw (a - (windowBase s).toNat) (by omega)).1
    omega

/-- The checksum step completes the command: NONE when the digest of the window read back equals the
stored checksum, CHECKSUM_MISMATCH otherwise. -/
theorem verify_cases (e : Engine) (f : Fields) (s : State) :
    digest s.cfg e (readWindow f s) = f.csum ∧
        verify e f s = completeDiag .none f.olen f.csum f.csum (runAccumulator e (readWindow f s) s) ∨
      digest s.cfg e (readWindow f s) ≠ f.csum ∧
        verify e f s = completeDiag .checksumMismatch 0 f.csum (digest s.cfg e (readWindow f s))
          (runAccumulator e (readWindow f s) s) := by
  by_cases h : digest s.cfg e (readWindow f s) = f.csum
  · exact .inl ⟨h, by simp [verify, h]⟩
  · exact .inr ⟨h, by simp [verify, h]⟩

/-- The checksum step changes only the result registers, STATUS, the phase and the accumulator. -/
@[simp] theorem verify_mem (e : Engine) (f : Fields) (s : State) : (verify e f s).mem = s.mem := by
  rcases verify_cases e f s with ⟨-, h⟩ | ⟨-, h⟩ <;> simp [h]

theorem verify_frame (e : Engine) (f : Fields) (s : State) :
    SameArguments s (verify e f s) ∧ SameHeaderRegs s (verify e f s) ∧ SameLaunch s (verify e f s) ∧
      SameHost s (verify e f s) ∧ (verify e f s).fault = s.fault ∧ (verify e f s).draws = s.draws := by
  rcases verify_cases e f s with ⟨-, h⟩ | ⟨-, h⟩ <;> rw [h] <;>
    exact ⟨⟨rfl, rfl, rfl, rfl, rfl⟩, ⟨rfl, rfl, rfl, rfl, rfl, rfl, rfl, rfl⟩, ⟨rfl, rfl, rfl⟩,
      ⟨rfl, rfl, rfl⟩, rfl, rfl⟩

theorem primA_out_length (p : List Byte) (cap : Nat) : (primA p cap).out.length = cap := by
  simp [primA]

theorem primB_out_length (p : List Byte) (cap : Nat) : (primB p cap).out.length = cap := by
  simp [primB]

/-- A primitive's result fails the size check, or goes on to the checksum. -/
theorem finishPrim_cases (r : PrimResult) (e : Engine) (f : Fields) (s : State) :
    r.count = f.olen ∧ finishPrim r e f s = verify e f (writeWindow r.out s) ∨
      r.count ≠ f.olen ∧
        finishPrim r e f s = completeDiag .sizeMismatch 0 f.olen r.count (writeWindow r.out s) := by
  by_cases h : r.count = f.olen
  · exact .inl ⟨h, by simp [finishPrim, h]⟩
  · exact .inr ⟨h, by simp [finishPrim, h]⟩

/-- A window written reads back as written. -/
theorem readWindow_writeWindow {f : Fields} {s : State} (hm : s.mem.wf) {bs : List Byte}
    (hl : bs.length = f.olen.toNat) : readWindow f (writeWindow bs s) = bs := by
  have := memReadBytes_memWriteBytes hm (windowBase s).toNat bs
  rwa [hl] at this

/-! ## DECOMPRESS -/

/-- Latching changes no operand of the command. -/
theorem latch_operands (h : Header) (s : State) :
    parseHeader (latchHeader h s) = parseHeader s ∧ windowBase (latchHeader h s) = windowBase s ∧
      payloadAddr (latchHeader h s) = payloadAddr s ∧ checkHeader (latchHeader h s) = checkHeader s :=
  ⟨rfl, rfl, rfl, rfl⟩

/-- DECOMPRESS faults on its header, or dispatches on the method byte. -/
theorem execDecompress_cases (s : State) :
    HeaderReady s ∧ execDecompress s = dispatchMethod (parseHeader s) (latchHeader (parseHeader s) s) ∨
      ∃ r, checkHeader s = some r ∧
        execDecompress s = .next (takeContractFault r (headerFootprint s) s) := by
  unfold execDecompress
  cases h : checkHeader s with
  | none => exact .inl ⟨checkHeader_eq_none.1 h, rfl⟩
  | some r => exact .inr ⟨r, rfl, rfl⟩

/-- The dispatch runs the METHOD row of the header. -/
theorem dispatchMethod_eq_exec (h : Header) (s : State) :
    dispatchMethod h s = exec (methodInstr s.cfg h) s := by
  unfold dispatchMethod methodInstr
  cases classify s.cfg h.method <;> rfl

/-- Magic byte i stands in its place of the latched registers (10_state.md R36). -/
theorem magicByte_latchHeader (h : Header) (s : State) {i : Nat} (hi : i < 16) :
    magicByte (latchHeader h s) i = byteAt h.fields.magic i := by
  have := wordByte_le32
  simp only [magicByte, latchHeader, packMagic, wordAt]
  interval_cases i <;> simp [this]

end Sys2Proof.Machine
end

