-- ==== Sys2Proof/Laws/PerInstr.lean ====
section
/-! SUPPORT. The statement made of every instruction, constructor by constructor: whatever encoding
decodes to it, on whatever build, it is well-formed for that build. -/

namespace Sys2Proof.Laws.DecodedWellFormed

/-- No encoding decodes to an instruction that is not well-formed. -/
def Statement (i : Instr) : Prop :=
  ∀ (c : Config) (e : Encoded), decode c e = .ok i → i.wf c = true

theorem getOriginalLen : Statement .getOriginalLen := fun _ _ h => decode_wf h
theorem decompress : Statement .decompress := fun _ _ h => decode_wf h
theorem badCommand (opcode : Byte) : Statement (.badCommand opcode) := fun _ _ h => decode_wf h
theorem methodRaw (f : Fields) : Statement (.methodRaw f) := fun _ _ h => decode_wf h
theorem methodAlgoA (f : Fields) : Statement (.methodAlgoA f) := fun _ _ h => decode_wf h
theorem methodAlgoB (f : Fields) : Statement (.methodAlgoB f) := fun _ _ h => decode_wf h
theorem methodOther (method : Byte) (f : Fields) : Statement (.methodOther method f) := fun _ _ h => decode_wf h
theorem regRead (off : Byte) : Statement (.regRead off) := fun _ _ h => decode_wf h
theorem regWriteCmd (data : Word) : Statement (.regWriteCmd data) := fun _ _ h => decode_wf h
theorem regWriteSrcAddrLo (data : Word) : Statement (.regWriteSrcAddrLo data) := fun _ _ h => decode_wf h
theorem regWriteSrcAddrHi (data : Word) : Statement (.regWriteSrcAddrHi data) := fun _ _ h => decode_wf h
theorem regWriteDstAddrLo (data : Word) : Statement (.regWriteDstAddrLo data) := fun _ _ h => decode_wf h
theorem regWriteDstAddrHi (data : Word) : Statement (.regWriteDstAddrHi data) := fun _ _ h => decode_wf h
theorem regWriteDstOff (data : Word) : Statement (.regWriteDstOff data) := fun _ _ h => decode_wf h
theorem regWriteIgnored (off : Byte) (data : Word) : Statement (.regWriteIgnored off data) := fun _ _ h => decode_wf h

end Sys2Proof.Laws.DecodedWellFormed
end

