-- ==== Sys2Proof/Laws/Step.lean ====
section
/-! SUPPORT. What one step can do, said once: which move it makes, and what each instruction leads to. -/

namespace Sys2Proof.Machine

/-- The device's turn: nothing in IDLE, a stop on a command that a contract fault has ended, otherwise the command of LAST_OP. -/
theorem deviceTurn_cases (s : State) :
    s.phase = .idle ∧ deviceTurn s = .done (.next s) ∨
      (∃ e, s.phase = .pending ∧ s.commandFault = some e ∧ deviceTurn s = .done (.fault (.faulted e.reason))) ∨
      s.phase = .pending ∧ s.commandFault = none ∧
        deviceTurn s = .run (decodeCmd (s.status.lastOp.setWidth 32)) s := by
  unfold deviceTurn
  cases hp : s.phase <;> cases hf : s.commandFault <;> simp

theorem fetch_device {s : State} (h : DeviceMoves s) : fetch s = deviceTurn (popMove s) := by
  rcases h with h | ⟨rest, h⟩
  · have : popMove s = s := by
      cases s
      simp_all [popMove]
    simp [fetch, h, this]
  · simp [fetch, h]

/-! ## The end of a command -/

/-- A command has completed: the device is idle, DONE is 1, and no mark has changed. -/
structure CommandCompletes (s t : State) : Prop where
  phase : t.phase = .idle
  fault : t.fault = s.fault
  commandFault : t.commandFault = s.commandFault
  done : t.status.done = true
  busy : t.status.busy = false

theorem completeDiag_completes (code : ErrCode) (r x y : Word) {s u : State} (hf : u.fault = s.fault)
    (hc : u.commandFault = s.commandFault) : CommandCompletes s (completeDiag code r x y u) :=
  ⟨rfl, hf, hc, rfl, rfl⟩

theorem verify_completes (e : Engine) (f : Fields) {s u : State} (hf : u.fault = s.fault)
    (hc : u.commandFault = s.commandFault) : CommandCompletes s (verify e f u) := by
  rcases verify_cases e f u with ⟨-, h⟩ | ⟨-, h⟩ <;> rw [h] <;> exact completeDiag_completes _ _ _ _ hf hc

theorem finishPrim_completes (r : PrimResult) (e : Engine) (f : Fields) {s u : State} (hf : u.fault = s.fault)
    (hc : u.commandFault = s.commandFault) : CommandCompletes s (finishPrim r e f u) := by
  rcases finishPrim_cases r e f u with ⟨-, h⟩ | ⟨-, h⟩ <;> rw [h]
  · exact verify_completes e f hf hc
  · exact completeDiag_completes _ _ _ _ hf hc

/-- A METHOD row completes, or takes a contract fault. -/
theorem methodInstr_ends (h : Header) (s : State) :
    (∃ t, exec (methodInstr s.cfg h) s = .next t ∧ CommandCompletes s t) ∨
      ∃ r, exec (methodInstr s.cfg h) s =
        .next (takeContractFault r (decompressFootprint (classify s.cfg h.method) h.fields s) s) := by
  have path (cls : MethodClass) (after : State) (ha : CommandCompletes s after) :
      (∃ t, whenDestinationOk cls h.fields s after = .next t ∧ CommandCompletes s t) ∨
        ∃ r, whenDestinationOk cls h.fields s after =
          .next (takeContractFault r (decompressFootprint cls h.fields s) s) := by
    rcases whenDestinationOk_cases cls h.fields s after with ⟨-, e⟩ | ⟨r, -, e⟩
    · exact .inl ⟨_, e, ha⟩
    · exact .inr ⟨r, e⟩
  rcases methodInstr_cases s.cfg h with ⟨hc, e⟩ | ⟨hc, e⟩ | ⟨hc, e⟩ | ⟨-, e⟩ <;> rw [e]
  · rw [hc]; exact path .raw _ (verify_completes _ _ rfl rfl)
  · rw [hc]; exact path .a _ (finishPrim_completes _ _ _ rfl rfl)
  · rw [hc]; exact path .b _ (finishPrim_completes _ _ _ rfl rfl)
  · exact .inl ⟨_, rfl, completeDiag_completes _ _ _ _ rfl rfl⟩

/-- The command of LAST_OP completes, or takes a contract fault on the bytes its registers give, before or
after it has latched the header. -/
theorem command_ends (s : State) :
    (∃ t, exec (decodeCmd (s.status.lastOp.setWidth 32)) s = .next t ∧ CommandCompletes s t) ∨
      ∃ r u, (u = s ∨ u = latchHeader (parseHeader s) s) ∧
        exec (decodeCmd (s.status.lastOp.setWidth 32)) s = .next (takeContractFault r (issuedFootprint s) u) := by
  have op (w : Byte) : (w.setWidth 32).setWidth 8 = w := by simp
  rcases decodeCmd_cases (s.status.lastOp.setWidth 32) with ⟨h, e⟩ | ⟨h, e⟩ | ⟨-, -, e⟩ <;> rw [e]
  · rw [op] at h
    simp only [exec, execGetOriginalLen]
    cases checkHeader s with
    | none => exact .inl ⟨_, rfl, rfl, rfl, rfl, rfl, rfl⟩
    | some r => exact .inr ⟨r, s, .inl rfl, by simp [issuedFootprint, h, opDecompress, opGetOriginalLen]⟩
  · rw [op] at h
    have hi : issuedFootprint s = headerFootprint s := by simp [issuedFootprint, h, opDecompress]
    simp only [exec, hi]
    rcases execDecompress_cases s with ⟨-, e⟩ | ⟨r, -, e⟩ <;> rw [e]
    · rw [dispatchMethod_eq_exec]
      rcases methodInstr_ends (parseHeader s) (latchHeader (parseHeader s) s) with ⟨t, e, ht⟩ | ⟨r, e⟩
      · exact .inl ⟨t, e, ht.1, ht.2, ht.3, ht.4, ht.5⟩
      · exact .inr ⟨r, _, .inr rfl, e⟩
    · exact .inr ⟨r, s, .inl rfl, rfl⟩
  · exact .inl ⟨_, rfl, completeDiag_completes _ _ _ _ rfl rfl⟩

/-! ## The moves -/

/-- Every step that answers a next state is one of seven moves. -/
theorem step_cases {s t : State} (h : step s = .next t) :
    (DeviceMoves s ∧ s.phase = .idle ∧ t = popMove s) ∨
    (DeviceMoves s ∧ s.phase = .pending ∧ s.commandFault = none ∧
      exec (decodeCmd (s.status.lastOp.setWidth 32)) (popMove s) = .next t) ∨
    (∃ a rest i, s.agenda = .bus a :: rest ∧ decodeBus a = .ok i ∧ exec i (popMove s) = .next t) ∨
    (∃ a rest e, s.agenda = .bus a :: rest ∧ decodeBus a = .error e ∧
      t = refuseAccess e a.dir (popMove s)) ∨
    (∃ a rest, s.agenda = .hostLoad a :: rest ∧ hostLoad a (popMove s) = .next t) ∨
    (∃ a b rest, s.agenda = .hostStore a b :: rest ∧ hostStore a b (popMove s) = .next t) ∨
    (∃ rest, s.agenda = .reset :: rest ∧ t = hardwareReset (pendingWindow s) (popMove s)) := by
  have device (hd : DeviceMoves s) :
      (DeviceMoves s ∧ s.phase = .idle ∧ t = popMove s) ∨
      (DeviceMoves s ∧ s.phase = .pending ∧ s.commandFault = none ∧
        exec (decodeCmd (s.status.lastOp.setWidth 32)) (popMove s) = .next t) := by
    rw [step, fetch_device hd] at h
    rcases deviceTurn_cases (popMove s) with ⟨hp, he⟩ | ⟨r, hp, hf, he⟩ | ⟨hp, hf, he⟩
    · rw [he] at h
      exact .inl ⟨hd, hp, (Host.Outcome.next.inj h).symm⟩
    · rw [he] at h
      cases h
    · rw [he] at h
      exact .inr ⟨hd, hp, hf, h⟩
  cases ha : s.agenda with
  | nil =>
    rcases device (.inl ha) with h | h
    · exact .inl h
    · exact .inr (.inl h)
  | cons e rest =>
    cases e with
    | device =>
      rcases device (.inr ⟨rest, ha⟩) with h | h
      · exact .inl h
      · exact .inr (.inl h)
    | bus a =>
      cases hb : decodeBus a with
      | error e =>
        simp only [step, fetch, ha, hb] at h
        exact .inr (.inr (.inr (.inl ⟨a, rest, e, rfl, hb, (Host.Outcome.next.inj h).symm⟩)))
      | ok i =>
        simp only [step, fetch, ha, hb] at h
        exact .inr (.inr (.inl ⟨a, rest, i, rfl, hb, h⟩))
    | hostLoad a =>
      simp only [step, fetch, ha] at h
      exact .inr (.inr (.inr (.inr (.inl ⟨a, rest, rfl, h⟩))))
    | hostStore a b =>
      simp only [step, fetch, ha] at h
      exact .inr (.inr (.inr (.inr (.inr (.inl ⟨a, b, rest, rfl, h⟩)))))
    | reset =>
      simp only [step, fetch, ha] at h
      exact .inr (.inr (.inr (.inr (.inr (.inr ⟨rest, rfl, (Host.Outcome.next.inj h).symm⟩)))))

/-- A host load changes nothing but what the host has read and the draw counter. -/
theorem hostLoad_cases (a : Addr) (s : State) :
    ((pendingWindow s).covers a.toNat = false ∧
      hostLoad a s = .next { s with loadData := memRead s.mem a.toNat }) ∨
    ((pendingWindow s).covers a.toNat = true ∧ hostLoad a s =
      .next { s with loadData := Config.freeMem s.draws a.toNat, draws := s.draws + 1 }) := by
  unfold hostLoad
  split_ifs with h
  · exact .inr ⟨h, rfl⟩
  · exact .inl ⟨by simpa using h, rfl⟩

/-- A host store takes the fault on the bytes of the command in progress, and otherwise stores its byte. -/
theorem hostStore_cases (a : Addr) (b : Byte) (s : State) :
    (((pendingReads s).covers a.toNat = true ∨ (pendingWindow s).covers a.toNat = true) ∧
      hostStore a b s = .next (takeContractFault .hostInterference (pendingFootprint s)
        { s with mem := memWrite s.mem a.toNat (Config.freeMem s.draws a.toNat) })) ∨
    ((pendingReads s).covers a.toNat = false ∧ (pendingWindow s).covers a.toNat = false ∧
      hostStore a b s = .next { s with mem := memWrite s.mem a.toNat b }) := by
  unfold hostStore
  split_ifs with h
  · exact .inl ⟨h, rfl⟩
  · exact .inr ⟨by simpa using fun hc => h (.inl hc), by simpa using fun hc => h (.inr hc), rfl⟩

/-- In IDLE a host access meets no command: it loads and stores what it names. -/
theorem hostLoad_idle {s : State} (h : s.phase = .idle) (a : Addr) :
    hostLoad a s = .next { s with loadData := memRead s.mem a.toNat } := by
  rcases hostLoad_cases a s with ⟨-, e⟩ | ⟨hc, -⟩
  · exact e
  · simp [pendingWindow_idle h] at hc

theorem hostStore_idle {s : State} (h : s.phase = .idle) (a : Addr) (b : Byte) :
    hostStore a b s = .next { s with mem := memWrite s.mem a.toNat b } := by
  rcases hostStore_cases a b s with ⟨hc, -⟩ | ⟨-, -, e⟩
  · simp [pendingWindow_idle h, pendingReads_idle h, Region.covers] at hc
  · exact e

end Sys2Proof.Machine
end

