-- ==== Sys2Proof/Machine/Program.lean ====
section
/-! DEFINITION. The host program notation (30_encoding.md R103): what a host's line of a program puts on
the agenda. A WAIT_DONE loop ends when the device has taken its step, so its shortest run is the device's
turn and one read of STATUS. -/

namespace Sys2Proof.Machine

/-- `WR <REG>, <imm32>`. -/
def hostWr (off : Nat) (data : Word) : Event := .bus (busWrite off data)

/-- `RD <REG>`. -/
def hostRd (off : Nat) : Event := .bus (busRead off)

/-- `WAIT_DONE`. -/
def hostWaitDone : List Event := [.device, hostRd 0x04]

/-- `GETLEN src`. -/
def hostGetLen (src : Addr) : List Event :=
  [hostWr 0x08 (src.setWidth 32), hostWr 0x0C ((src >>> 32).setWidth 32), hostWr 0x00 0x01]
    ++ hostWaitDone ++ [hostRd 0x1C]

/-- `DECOMP src, dst, off`. -/
def hostDecomp (src dst : Addr) (off : Word) : List Event :=
  [hostWr 0x08 (src.setWidth 32), hostWr 0x0C ((src >>> 32).setWidth 32),
   hostWr 0x10 (dst.setWidth 32), hostWr 0x14 ((dst >>> 32).setWidth 32),
   hostWr 0x18 off, hostWr 0x00 0x02]
    ++ hostWaitDone ++ [hostRd 0x04, hostRd 0x1C]

end Sys2Proof.Machine
end

