-- ==== Sys2Proof/Tests/Slice0.lean ====
section
/-! SUPPORT. Tests of the model against the words and vectors of spec/ (30_encoding.md R104,
95_test_vectors.md), and a witness for the hypotheses of every statement. -/

namespace Sys2Proof.Tests

open Sys2Proof.Machine

/-! ## WellFormed smoke: each check refuses an ill-formed term -/

/-- The magic "ZSTDBlock" (95_test_vectors.md). -/
def zstd : List Byte := [0x5A, 0x53, 0x54, 0x44, 0x42, 0x6C, 0x6F, 0x63, 0x6B]

/-- Fields with the nine-byte magic. -/
def fieldsOf (clen olen csum : Word) : Fields := { magic := zstd, clen := clen, olen := olen, csum := csum }

/-- Fields whose magic is one byte short. -/
def shortMagic : Fields := { magic := zstd.tail, clen := 0, olen := 0, csum := 0 }

theorem test_wf_badCommand : Instr.wf Config.standard (.badCommand 0x02) = false := by decide
theorem test_wf_methodRaw : Instr.wf Config.standard (.methodRaw shortMagic) = false := by decide
theorem test_wf_methodAlgoA : Instr.wf Config.standard (.methodAlgoA shortMagic) = false := by decide
theorem test_wf_methodAlgoB_foreign :
    Instr.wf { Config.standardA with acceptForeign := false } (.methodAlgoB (fieldsOf 0 0 0)) = false := by decide
theorem test_wf_methodOther : Instr.wf Config.standard (.methodOther 0x01 (fieldsOf 0 0 0)) = false := by decide
theorem test_wf_regRead : Instr.wf Config.standard (.regRead 0x02) = false := by decide
theorem test_wf_regWriteIgnored_misaligned : Instr.wf Config.standard (.regWriteIgnored 0x03 0) = false := by decide
theorem test_wf_regWriteIgnored_argument : Instr.wf Config.standard (.regWriteIgnored 0x08 0) = false := by decide
theorem test_build_refuses_magic_length :
    (Config.build? 17 0 1 2 .a true 0 0 0).isNone = true ∧ (Config.build? 0 0 1 2 .a true 0 0 0).isNone = true := by decide
theorem test_build_refuses_equal_codes : (Config.build? 9 0 1 1 .a true 0 0 0).isNone = true := by decide
theorem test_build_refuses_misaligned_window : (Config.build? 9 0 1 2 .a true 0 0 0x10).isNone = true := by decide

/-! ## Decoding, by words written out from the spec's encodings -/

/-- The 37-byte block of 30_encoding.md R104. -/
def helloBlock : List Byte :=
  zstd ++ [0x00, 0x0F, 0x00, 0x00, 0x00, 0x0F, 0x00, 0x00, 0x00, 0x0F, 0x76, 0x51, 0xE4] ++
    [0x48, 0x65, 0x6C, 0x6C, 0x6F, 0x20, 0x43, 0x65, 0x6C, 0x65, 0x62, 0x6F, 0x72, 0x6E, 0x21]

/-- "Hello Celeborn!". -/
def hello : List Byte :=
  [0x48, 0x65, 0x6C, 0x6C, 0x6F, 0x20, 0x43, 0x65, 0x6C, 0x65, 0x62, 0x6F, 0x72, 0x6E, 0x21]

theorem test_decode_getOriginalLen : decodeCmd 0x00000001 = .getOriginalLen := by decide
theorem test_decode_decompress_ignores_high_bits : decodeCmd 0xFFFFFF02 = .decompress := by decide
theorem test_decode_badCommand : decodeCmd 0x00000000 = .badCommand 0x00 ∧ decodeCmd 0x00000103 = .badCommand 0x03 := by
  decide
theorem test_decode_methodRaw :
    decode Config.standard (.header helloBlock) = .ok (.methodRaw (fieldsOf 15 15 0xE451760F)) := by decide
/-- P4's ALGO_A block (95_test_vectors.md). -/
theorem test_decode_methodAlgoA :
    decode Config.standard (.header (zstd ++
      [0x01, 0x05, 0x00, 0x00, 0x00, 0x0F, 0x00, 0x00, 0x00, 0xBC, 0x42, 0x3A, 0xFD, 0xAA, 0xBB, 0xCC, 0xDD, 0xEE])) =
      .ok (.methodAlgoA (fieldsOf 5 15 0xFD3A42BC)) := by decide
/-- P4's ALGO_B block (95_test_vectors.md). -/
theorem test_decode_methodAlgoB :
    decode Config.standard (.header (zstd ++
      [0x02, 0x05, 0x00, 0x00, 0x00, 0x0F, 0x00, 0x00, 0x00, 0x0F, 0x76, 0x51, 0xE4, 0xAA, 0xBB, 0xCC, 0xDD, 0xEE])) =
      .ok (.methodAlgoB (fieldsOf 5 15 0xE451760F)) := by decide
/-- P3's block of method 0x7F (95_test_vectors.md). -/
theorem test_decode_methodOther :
    decode Config.standardA (.header (zstd ++
      [0x7F, 0x05, 0x00, 0x00, 0x00, 0x05, 0x00, 0x00, 0x00, 0x00, 0x00, 0x00, 0x00, 0x61, 0x62, 0x63, 0x64, 0x65])) =
      .ok (.methodOther 0x7F (fieldsOf 5 5 0)) := by decide
theorem test_decode_shortHeader :
    decode Config.standard (.header (helloBlock.take 21)) = .error .shortHeader := by decide
theorem test_decode_regRead : decodeBus (busRead 0x3C) = .ok (.regRead 0x3C) := by decide
theorem test_decode_regWriteCmd : decodeBus (busWrite 0x00 0x2) = .ok (.regWriteCmd 0x2) := by decide
theorem test_decode_regWriteArguments :
    decodeBus (busWrite 0x08 0x1000) = .ok (.regWriteSrcAddrLo 0x1000) ∧
    decodeBus (busWrite 0x0C 0x1) = .ok (.regWriteSrcAddrHi 0x1) ∧
    decodeBus (busWrite 0x10 0x2000) = .ok (.regWriteDstAddrLo 0x2000) ∧
    decodeBus (busWrite 0x14 0x1) = .ok (.regWriteDstAddrHi 0x1) ∧
    decodeBus (busWrite 0x18 0x4) = .ok (.regWriteDstOff 0x4) := by decide
theorem test_decode_regWriteIgnored :
    decodeBus (busWrite 0x04 0xFFFFFFFF) = .ok (.regWriteIgnored 0x04 0xFFFFFFFF) ∧
    decodeBus (busWrite 0xFC 0) = .ok (.regWriteIgnored 0xFC 0) := by decide
/-- 43_register_access.md R205, vector V-R11. -/
theorem test_decode_malformed :
    decodeBus (busRead 0x02) = .error .misaligned ∧ decodeBus (busRead 0x100) = .error .outOfWindow ∧
    decodeBus { dir := .read, width := 16, off := 0x04, data := 0 } = .error .wrongWidth := by decide

/-- 95_test_vectors.md section 2.2, V-M1 to V-M10. -/
theorem test_classify_vectors :
    classify Config.standard 0x00 = .raw ∧ classify Config.standardA 0x01 = .a ∧
    classify Config.standard 0x02 = .b ∧ classify Config.standardA 0x02 = .b ∧
    classify { Config.standardA with acceptForeign := false } 0x02 = .other ∧
    classify { Config.standard with acceptForeign := false } 0x01 = .other ∧
    classify Config.standard 0x03 = .other ∧ classify Config.standard 0x80 = .other ∧
    classify Config.standard 0xFF = .other ∧ classify Config.standard 0x10 = .other := by decide

/-! ## Checksums (95_test_vectors.md section 2.3) -/

/-- "Hello Celeborn!!", one stripe. -/
def hello16 : List Byte := hello ++ [0x21]

theorem test_crc32_check : crc32 [0x31, 0x32, 0x33, 0x34, 0x35, 0x36, 0x37, 0x38, 0x39] = 0xCBF43926 := by decide +kernel
theorem test_crc32_empty : crc32 [] = 0x00000000 := by decide
theorem test_crc32_hello : crc32 hello = 0xE451760F ∧ crc32 hello16 = 0x0E30B334 := by decide +kernel
theorem test_fast_empty : fastDigest Config.standard [] = 0x8D3B42D8 := by decide
theorem test_xxh32_published :
    xxh32 [] 0 = 0x02CC5D05 ∧ xxh32 [0x61] 0 = 0x550D7456 ∧ xxh32 [0x61, 0x62, 0x63] 0 = 0x32D153FF := by decide
theorem test_fast_hello :
    fastDigest Config.standard hello = 0xFD3A42BC ∧ fastDigest Config.standard hello16 = 0xAA0E7507 := by decide
/-- V-CK8, two stripes. -/
theorem test_fast_two_stripes :
    fastDigest Config.standard ((List.range 32).map (BitVec.ofNat 8)) = 0x0EF0F5A5 := by decide
/-- The accumulator, fed in chunks of 15, 2 and 15 bytes, gives V-CK8 (42_checksum.md R181). -/
theorem test_accumulator_chunks :
    accDigest Config.standard
      ([(List.range 15).map (BitVec.ofNat 8), [15, 16], (List.range 15).map fun i => BitVec.ofNat 8 (i + 17)].foldl
        accUpdate (accReset Config.standard .fast)) = 0x0EF0F5A5 := by decide

/-! ## One step each -/

/-- What a next state shows, nothing for a stop. -/
def shows {α : Type} (o : Host.Outcome State Fault Refusal) (f : State → α) : Option α :=
  match o with
  | .next t => some (f t)
  | .fault _ => none
  | .refused _ => none

/-- A launch with `block` at 0x1000, admitted, and 24 bytes of destination at 0x2000. -/
def launchOf (c : Config) (block : List Byte) : State :=
  { State.launch c (memWriteBytes [] 0x1000 block) [{ base := 0x1000, size := block.length }]
      [{ base := 0x2000, size := 0x18 }] [] with
    srcAddrLo := 0x1000
    dstAddrLo := 0x2000 }

/-- The same with command `op` PENDING. -/
def pendingOf (c : Config) (block : List Byte) (op : Byte) : State := issueCommand op (launchOf c block)

/-- A misaligned access was refused in IDLE, and DECOMPRESS of the spec's block was issued after it. -/
def refusedThenIssued : State :=
  { pendingOf Config.standard helloBlock 0x02 with fault := some (.refused .misaligned) }

/-- V-G1. -/
theorem test_getOriginalLen_hello :
    shows (step (pendingOf Config.standard helloBlock 0x01)) (fun t => (statusWord t.status, t.result, t.hdrOlen)) =
      some (0x00000102, 0x0000000F, 0x0000000F) := by decide
/-- V-G4: 21 of 22 header bytes admitted. -/
theorem test_getOriginalLen_short :
    shows (step (pendingOf Config.standard (helloBlock.take 21) 0x01)) (fun t => t.fault) =
      some (some (.contract .srcOutOfBounds)) := by decide
/-- V-DEC1. -/
theorem test_decompress_hello :
    shows (step (pendingOf Config.standard helloBlock 0x02))
      (fun t => (statusWord t.status, t.result, t.diagExpected, t.diagActual, memReadBytes t.mem 0x2000 15)) =
      some (0x00000202, 0xF, 0xE451760F, 0xE451760F, hello) := by decide +kernel
/-- The owner-A outcome of the same block (95_test_vectors.md section 1.1). -/
theorem test_decompress_hello_ownerA :
    shows (step (pendingOf Config.standardA helloBlock 0x02))
      (fun t => (statusWord t.status, t.result, t.diagActual, t.hdrMagic0, t.hdrMagic1, t.hdrMagic2)) =
      some (0x00000236, 0, 0xFD3A42BC, 0x4454535A, 0x636F6C42, 0x0000006B) := by decide
/-- V-R10. -/
theorem test_badCommand :
    shows (step (pendingOf Config.standard [] 0x00)) (fun t => statusWord t.status) = some 0x00000046 := by decide
/-- 43_register_access.md R203's example. -/
theorem test_badCommand_seven :
    shows (step (pendingOf Config.standard [] 0x07)) (fun t => (statusWord t.status, t.diagActual)) =
      some (0x00000746, 0x00000007) := by decide
/-- V-DEC14: compressed_len plays no part under RAW. -/
theorem test_methodRaw_ignores_clen :
    shows (exec (.methodRaw (fieldsOf 0xFFFFFFFF 15 0xE451760F)) (pendingOf Config.standard helloBlock 0x02))
      (fun t => (statusWord t.status, t.result)) = some (0x00000202, 0xF) := by decide +kernel
/-- V-DEC16: the window starts at DST + 4; bytes around it are unchanged. -/
theorem test_methodRaw_offset :
    shows (exec (.methodRaw (fieldsOf 15 15 0xE451760F))
        { pendingOf Config.standard helloBlock 0x02 with
          dstOff := 4, mem := memWriteBytes (memWriteBytes [] 0x1000 helloBlock) 0x2000 (List.replicate 24 0xEE) })
      (fun t => memReadBytes t.mem 0x2000 24) =
      some (List.replicate 4 0xEE ++ hello ++ List.replicate 5 0xEE) := by decide +kernel
/-- V-X3. -/
theorem test_methodAlgoA_negative_length :
    shows (exec (.methodAlgoA (fieldsOf 0xFFFFFFFF 15 0)) (pendingOf Config.standard helloBlock 0x02)) (fun t => t.fault) =
      some (some (.contract .negativeLength)) := by decide
/-- V-DEC8's shape: if PrimA returns 15 and "Hello Celeborn!", the fast hash decides. -/
theorem test_methodAlgoA_fast_hash
    (h : primA (readPayload 5 (pendingOf Config.standard helloBlock 0x02)) 15 = { count := 15, out := hello }) :
    shows (exec (.methodAlgoA (fieldsOf 5 15 0xFD3A42BC)) (pendingOf Config.standard helloBlock 0x02))
      (fun t => (statusWord t.status, t.diagActual)) = some (0x00000202, 0xFD3A42BC) := by
  have e : exec (.methodAlgoA (fieldsOf 5 15 0xFD3A42BC)) (pendingOf Config.standard helloBlock 0x02) =
      whenDestinationOk .a (fieldsOf 5 15 0xFD3A42BC) (pendingOf Config.standard helloBlock 0x02)
        (finishPrim (primA (readPayload 5 (pendingOf Config.standard helloBlock 0x02)) 15) .fast
          (fieldsOf 5 15 0xFD3A42BC) (pendingOf Config.standard helloBlock 0x02)) := rfl
  rw [e, h]
  decide
/-- V-DEC9's shape: if PrimB returns 15 and "Hello Celeborn!", CRC-32 decides. -/
theorem test_methodAlgoB_crc
    (h : primB (readPayload 5 (pendingOf Config.standard helloBlock 0x02)) 15 = { count := 15, out := hello }) :
    shows (exec (.methodAlgoB (fieldsOf 5 15 0xE451760F)) (pendingOf Config.standard helloBlock 0x02))
      (fun t => (statusWord t.status, t.result)) = some (0x00000202, 0xF) := by
  have e : exec (.methodAlgoB (fieldsOf 5 15 0xE451760F)) (pendingOf Config.standard helloBlock 0x02) =
      whenDestinationOk .b (fieldsOf 5 15 0xE451760F) (pendingOf Config.standard helloBlock 0x02)
        (finishPrim (primB (readPayload 5 (pendingOf Config.standard helloBlock 0x02)) 15) .crc
          (fieldsOf 5 15 0xE451760F) (pendingOf Config.standard helloBlock 0x02)) := rfl
  rw [e, h]
  decide +kernel
/-- V-DEC15: a negative count is a SIZE_MISMATCH. -/
theorem test_methodAlgoB_negative_count
    (h : (primB (readPayload 5 (pendingOf Config.standard helloBlock 0x02)) 15).count = 0xFFFFFFFF) :
    shows (exec (.methodAlgoB (fieldsOf 5 15 0xE451760F)) (pendingOf Config.standard helloBlock 0x02))
      (fun t => (statusWord t.status, t.diagExpected, t.diagActual)) = some (0x00000226, 0xF, 0xFFFFFFFF) := by
  have e : exec (.methodAlgoB (fieldsOf 5 15 0xE451760F)) (pendingOf Config.standard helloBlock 0x02) =
      whenDestinationOk .b (fieldsOf 5 15 0xE451760F) (pendingOf Config.standard helloBlock 0x02)
        (finishPrim (primB (readPayload 5 (pendingOf Config.standard helloBlock 0x02)) 15) .crc
          (fieldsOf 5 15 0xE451760F) (pendingOf Config.standard helloBlock 0x02)) := rfl
  rw [e, finishPrim, h]
  decide
/-- V-DEC5 (STATUS and DIAG). -/
theorem test_methodOther :
    shows (exec (.methodOther 0x7F (fieldsOf 5 5 0)) (pendingOf Config.standardA [] 0x02))
      (fun t => (statusWord t.status, t.diagExpected, t.diagActual)) = some (0x00000216, 0, 0x7F) := by decide
/-- V-X1, V-X4, V-X6 on the RAW block: NegativeOffset, DstOutOfBounds, Overlap. -/
theorem test_contract_faults :
    shows (step { pendingOf Config.standard helloBlock 0x02 with dstOff := 0xFFFFFFFF }) (fun t => t.fault) =
      some (some (.contract .negativeOffset)) ∧
    shows (step { pendingOf Config.standard helloBlock 0x02 with dstAdmit := [{ base := 0x2000, size := 14 }] })
      (fun t => t.fault) = some (some (.contract .dstOutOfBounds)) ∧
    shows (step { pendingOf Config.standard helloBlock 0x02 with
      dstAddrLo := 0x1010, dstAdmit := [{ base := 0x1010, size := 15 }] }) (fun t => t.fault) =
      some (some (.contract .overlap)) := by decide
/-- V-X7: header byte 16 would lie at 2^64. -/
theorem test_header_address_range :
    shows (step { pendingOf Config.standard helloBlock 0x02 with
      srcAddrLo := 0xFFFFFFF0, srcAddrHi := 0xFFFFFFFF, srcAdmit := [{ base := 2 ^ 64 - 16, size := 16 }] })
      (fun t => t.fault) = some (some (.contract .addressRange)) := by decide
/-- V-X8, V-X9. -/
theorem test_busy_write :
    shows (exec (.regWriteDstOff 0) (pendingOf Config.standard helloBlock 0x02)) (fun t => t.fault) =
      some (some (.contract .busyWrite)) ∧
    shows (exec (.regWriteCmd 2) (pendingOf Config.standard helloBlock 0x02)) (fun t => t.fault) =
      some (some (.contract .busyWrite)) := by decide
/-- V-R11: a misaligned read sets the fault mark; so does a 16-bit one, and one past the window. -/
theorem test_malformed_access_sets_mark :
    shows (step { launchOf Config.standard [] with agenda := [.bus (busRead 0x02)] }) (fun t => (t.fault, t.phase)) =
      some (some (.refused .misaligned), .idle) ∧
    shows (step { launchOf Config.standard [] with agenda := [.bus { busRead 0x04 with width := 16 }] })
      (fun t => t.fault) = some (some (.refused .wrongWidth)) ∧
    shows (step { launchOf Config.standard [] with agenda := [.bus (busWrite 0x100 0)] }) (fun t => t.fault) =
      some (some (.refused .outOfWindow)) := by decide
/-- 10_state.md R23: reset clears the mark that a refused access set. -/
theorem test_reset_clears_refused :
    shows (step { State.reset with fault := some (.refused .misaligned), agenda := [.reset] }) (fun t => t.fault) =
      some none := by decide
/-- V-X10: the host stores to the payload (0x1016) while PENDING. -/
theorem test_host_interference :
    shows (step { pendingOf Config.standard helloBlock 0x02 with agenda := [.hostStore 0x1016 0] }) (fun t => t.fault) =
      some (some (.contract .hostInterference)) := by decide
/-- 20_memory.md R76 (d) in a marked state: a refused access in IDLE, then a command; the store to its payload
still raises HostInterference, which ends the command and leaves the registers with the draw. -/
theorem test_host_interference_marked :
    shows (step { refusedThenIssued with agenda := [.hostStore 0x1016 0] })
      (fun t => (t.fault, t.commandFault.map (·.reason), t.phase, t.draws)) =
      some (some (.refused .misaligned), some .hostInterference, .pending, 1) := by decide
/-- 20_memory.md R76 (c) in a marked state: a load in IDLE returns the byte memory holds. -/
theorem test_host_load_marked :
    shows (step { launchOf Config.standard helloBlock with
      fault := some (.refused .misaligned), agenda := [.hostLoad 0x1000] }) (fun t => t.loadData) = some 0x5A := by
  decide
/-- 43_register_access.md R205, 10_state.md R45, 70_reset_and_hazards.md R258: a misaligned read while PENDING
sets the mark and leaves STATUS, SRC and the command. -/
theorem test_refused_access_pending :
    shows (step { pendingOf Config.standard helloBlock 0x02 with agenda := [.bus (busRead 0x02)] })
      (fun t => (t.fault, statusWord t.status, t.phase, srcAddr t, t.commandFault)) =
      some (some (.refused .misaligned), 0x00000201, .pending, 0x1000, none) := by decide
/-- 70_reset_and_hazards.md R258 in a marked state: a command issued after a refused access in IDLE runs. -/
theorem test_command_runs_marked :
    shows (step refusedThenIssued) (fun t => (t.fault, statusWord t.status, t.result)) =
      some (some (.refused .misaligned), 0x00000202, 0xF) := by decide +kernel
/-- V-R2 to V-R5. -/
theorem test_regRead_config :
    shows (exec (.regRead 0x38) State.reset) (fun t => t.readData) = some 0x00000309 ∧
    shows (exec (.regRead 0x38) (launchOf Config.standardA [])) (fun t => t.readData) = some 0x00000209 ∧
    shows (exec (.regRead 0x3C) State.reset) (fun t => t.readData) = some 0x00020100 ∧
    shows (exec (.regRead 0x40) State.reset) (fun t => t.readData) = some 0x9747B28C ∧
    shows (exec (.regRead 0x44) State.reset) (fun t => t.readData) = some 0xFFFFFFFF := by decide
/-- 43_register_access.md R200: STATUS while PENDING. -/
theorem test_regRead_status_pending :
    shows (exec (.regRead 0x04) (pendingOf Config.standard [] 0x02)) (fun t => t.readData) = some 0x00000201 := by decide
/-- V-R9. -/
theorem test_regWriteCmd :
    shows (exec (.regWriteCmd 0xFFFFFF02) State.reset) (fun t => (statusWord t.status, t.phase)) =
      some (0x00000201, .pending) := by decide
theorem test_regWriteSrcAddrLo :
    shows (exec (.regWriteSrcAddrLo 0x1000) State.reset) (fun t => srcAddr t) = some 0x1000 := by decide
theorem test_regWriteSrcAddrHi :
    shows (exec (.regWriteSrcAddrHi 0x1) State.reset) (fun t => srcAddr t) = some 0x100000000 := by decide
theorem test_regWriteDstAddrLo :
    shows (exec (.regWriteDstAddrLo 0x2000) State.reset) (fun t => dstAddr t) = some 0x2000 := by decide
theorem test_regWriteDstAddrHi :
    shows (exec (.regWriteDstAddrHi 0xFFFFFFFF) State.reset) (fun t => dstAddr t) = some 0xFFFFFFFF00000000 := by decide
/-- 43_register_access.md R202's example. -/
theorem test_regWriteDstOff :
    shows (exec (.regWriteDstOff 0xFFFFFFFF) State.reset) (fun t => dstOffset t) = some (-1) := by decide
/-- V-R8. -/
theorem test_regWriteIgnored :
    shows (exec (.regWriteIgnored 0x04 0xFFFFFFFF) { State.reset with status := statusCompleted .none (statusIssued 0x02) })
      (fun t => statusWord t.status) = some 0x00000202 := by decide
/-- P1's GETLEN line by line puts the expected bus operations (30_encoding.md R103). -/
theorem test_getLen_program :
    hostGetLen 0x1000 =
      [.bus { dir := .write, width := 32, off := 0x08, data := 0x1000 },
       .bus { dir := .write, width := 32, off := 0x0C, data := 0 },
       .bus { dir := .write, width := 32, off := 0x00, data := 1 },
       .device, .bus { dir := .read, width := 32, off := 0x04, data := 0 },
       .bus { dir := .read, width := 32, off := 0x1C, data := 0 }] := by decide
/-- A placed opcode-table word is what the next step runs. -/
theorem test_withFetchWord :
    step (State.reset.withFetchWord 32 0x00000007) =
      exec (.badCommand 0x07) (issueCommand 0x07 State.reset) ∧
    step (State.reset.withFetchWord 8 0x18) = exec (.regWriteDstOff 0) State.reset := ⟨rfl, rfl⟩

/-! ## Witnesses: concrete states and operands that meet the hypotheses of the statements -/

/-- From an evaluated outcome to the existence of the next state. -/
theorem next_of_shows {o : Host.Outcome State Fault Refusal} {f : State → Bool} (h : shows o f = some true) :
    ∃ t, o = .next t ∧ f t = true := by
  cases o with
  | next t => exact ⟨t, rfl, by simpa [shows] using h⟩
  | fault _ => cases h
  | refused _ => cases h

/-- The RAW block of the spec with DECOMPRESS pending. -/
def rawWait : State := pendingOf Config.standard helloBlock 0x02

/-- The spec's ALGO_A block (P4) with DECOMPRESS pending. -/
def codecAWait : State :=
  pendingOf Config.standard (zstd ++
    [0x01, 0x05, 0x00, 0x00, 0x00, 0x0F, 0x00, 0x00, 0x00, 0xBC, 0x42, 0x3A, 0xFD, 0xAA, 0xBB, 0xCC, 0xDD, 0xEE]) 0x02

/-- The spec's ALGO_B block (P4) with DECOMPRESS pending. -/
def codecBWait : State :=
  pendingOf Config.standard (zstd ++
    [0x02, 0x05, 0x00, 0x00, 0x00, 0x0F, 0x00, 0x00, 0x00, 0x0F, 0x76, 0x51, 0xE4, 0xAA, 0xBB, 0xCC, 0xDD, 0xEE]) 0x02

/-- The spec's block of method 0x7F (P3) with DECOMPRESS pending. -/
def otherWait : State :=
  pendingOf Config.standard (zstd ++
    [0x7F, 0x05, 0x00, 0x00, 0x00, 0x05, 0x00, 0x00, 0x00, 0x00, 0x00, 0x00, 0x00, 0x61, 0x62, 0x63, 0x64, 0x65]) 0x02

/-- A state in IDLE with the spec's block in memory. -/
def rawIdle : State := launchOf Config.standard helloBlock

/-- A state in which a BusyWrite has ended the command. -/
def marked : State :=
  { rawWait with
    fault := some (.contract .busyWrite)
    commandFault := some { reason := .busyWrite, footprint := issuedFootprint rawWait } }

theorem marked_blockInv : BlockInv marked where
  memory := by decide +kernel
  inSpace := by decide +kernel
  accumulator := rfl
  busy := by decide
  faulted := fun _ _ => by simp [marked]
  ended := fun _ => ⟨rfl, by simp [marked]⟩
  status := fun h => by cases h
  result := fun h => by cases h
  magic := fun h => by cases h

theorem witness_DecodeInvertsEncode :
    Instr.wf Config.standard (.methodRaw (fieldsOf 15 15 0xE451760F)) = true ∧
    Instr.wf Config.standard (.methodOther 0xFF (fieldsOf 0 0 0)) = true ∧
    Instr.wf Config.standard (.regWriteIgnored 0xFC 1) = true := by decide
theorem witness_EncodeInvertsHeaderDecode :
    (helloBlock.take 22).length = Config.standard.headerLen ∧
    decode Config.standard (.header (helloBlock.take 22)) = .ok (.methodRaw (fieldsOf 15 15 0xE451760F)) := by decide
theorem witness_HeaderInMemoryIsParsed :
    zstd.length = rawWait.cfg.magicLen ∧
    memReadBytes rawWait.mem (srcAddr rawWait) rawWait.cfg.headerLen =
      encodeHeader 0x00 (fieldsOf 15 15 0xE451760F) := by decide
theorem witness_StepRunsDecodedInstruction :
    ({ rawIdle with agenda := [.bus (busWrite 0x18 4)] } : State).agenda = [.bus (busWrite 0x18 4)] ∧
    decode rawIdle.cfg (.bus (busWrite 0x18 4)) = .ok (.regWriteDstOff 4) ∧
    rawWait.agenda = [] ∧ rawWait.phase = .pending ∧ rawWait.commandFault = none ∧
    (0x00000002 : Word).setWidth 8 = rawWait.status.lastOp ∧ decode rawWait.cfg (.cmdw 0x00000002) = .ok .decompress := by
  decide
theorem witness_DecompressRunsHeaderInstruction :
    HeaderReady rawWait ∧
    decode rawWait.cfg (.header (memReadBytes rawWait.mem (srcAddr rawWait) (rawWait.cfg.headerLen + 15))) =
      .ok (.methodRaw (fieldsOf 15 15 0xE451760F)) := by decide
/-- An access for each clause: a 16-bit one, the first offset past the window, a misaligned one, and the
last offset of the window. -/
theorem witness_MalformedAccessIsRefused :
    ({ busRead 0x04 with width := 16 } : BusAccess).width ≠ 32 ∧
    ((busRead 0x100).width = 32 ∧ 0x100 ≤ (busRead 0x100).off) ∧
    ((busWrite 0xFE 0).width = 32 ∧ (busWrite 0xFE 0).off < 0x100 ∧ (busWrite 0xFE 0).off % 4 ≠ 0) ∧
    ((busRead 0xFC).width = 32 ∧ (busRead 0xFC).off < 0x100 ∧ (busRead 0xFC).off % 4 = 0) := by decide
theorem witness_IdleDeviceWaits : DeviceMoves rawIdle ∧ rawIdle.phase = .idle := ⟨.inl rfl, rfl⟩
theorem witness_PendingCommandEnds :
    DeviceMoves rawWait ∧ rawWait.phase = .pending ∧ rawWait.commandFault = none ∧ rawWait.fault = none ∧
    DeviceMoves refusedThenIssued ∧ refusedThenIssued.phase = .pending ∧ refusedThenIssued.commandFault = none :=
  ⟨.inl rfl, rfl, rfl, rfl, .inl rfl, rfl, rfl⟩
/-- A misaligned read while DECOMPRESS waits, with the device's turn next. -/
theorem witness_RefusedAccessEndsNoCommand :
    decode rawWait.cfg (.bus (busRead 0x02)) = .error .misaligned ∧ rawWait.phase = .pending ∧
    rawWait.commandFault = none ∧ [Event.device].head? = some .device ∧
    (0x00000002 : Word).setWidth 8 = rawWait.status.lastOp ∧ decode rawWait.cfg (.cmdw 0x00000002) = .ok .decompress := by
  decide
theorem witness_ResetInputResetsBlock :
    ({ rawWait with agenda := [.reset] } : State).agenda = [.reset] ∧
    ({ rawWait with agenda := [.reset] } : State).phase = .pending ∧
    ({ rawIdle with agenda := [.reset] } : State).phase = .idle := by decide
theorem witness_ResetMeetsInvariant : Memory.wf rawIdle.mem ∧ Memory.inSpace rawIdle.mem := by decide +kernel
theorem reset_blockInv : BlockInv State.reset where
  memory := by decide
  inSpace := by decide
  accumulator := rfl
  busy := by decide
  faulted := fun _ h => by cases h
  ended := fun h => by exact absurd rfl h
  status := fun _ => ⟨by decide, by decide, by decide⟩
  result := by decide
  magic := by decide
theorem witness_StepKeepsInvariant : BlockInv State.reset ∧ ∃ t, step State.reset = .next t :=
  ⟨reset_blockInv, _, rfl⟩
theorem witness_BuildAndLaunchNeverChange : ∃ t, step { rawIdle with agenda := [.reset] } = .next t := ⟨_, rfl⟩
theorem witness_OnlyCommandsChangeStatus :
    rawIdle.commandFault = none ∧
    (∃ t, exec (.regRead 0x1C) rawIdle = .next t ∧ t.commandFault = none) ∧
    (isRegWrite (.regWriteDstOff 4) = true ∧ (∀ d, Instr.regWriteDstOff 4 ≠ .regWriteCmd d) ∧
      ∃ t, exec (.regWriteDstOff 4) rawIdle = .next t ∧ t.commandFault = none) ∧
    (∃ t, exec (.regWriteCmd 2) rawIdle = .next t ∧ t.commandFault = none) :=
  ⟨rfl, ⟨_, rfl, rfl⟩, ⟨rfl, fun _ => by simp, _, rfl, rfl⟩, _, rfl, rfl⟩
theorem witness_IdleReadReturnsRegister : rawIdle.phase = .idle := rfl
theorem witness_PendingReadReturnsDraw :
    rawWait.phase = .pending ∧ (0x00 : Byte).toNat % 4 = 0 ∧ (0x00 : Byte) ≠ 0x04 ∧ (0xFC : Byte).toNat % 4 = 0 := by
  decide
theorem witness_ReservedReadsZeroIgnoresWrites :
    rawIdle.phase = .idle ∧ (0xFFFFFF02 : Word).setWidth 8 = (0x00000002 : Word).setWidth 8 ∧
    ∀ off ∈ [(0x48 : Byte), 0x4C, 0x60, 0xFC],
      off.toNat % 4 = 0 ∧ (off.toNat = 0x48 ∨ off.toNat = 0x4C ∨ 0x60 ≤ off.toNat) := by decide
theorem witness_CmdWriteStartsCommand :
    rawIdle.phase = .idle ∧ rawWait.phase = .pending ∧ DeviceMoves rawWait ∧ rawWait.commandFault = none :=
  ⟨rfl, rfl, .inl rfl, rfl⟩
theorem witness_ArgumentWritesStore :
    rawIdle.phase = .idle ∧ rawWait.phase = .pending ∧ (0x04 : Byte).toNat % 4 = 0 ∧ (0xFC : Byte).toNat % 4 = 0 := by
  decide
theorem witness_PendingWriteIsBusyWrite :
    isRegWrite (.regWriteIgnored 0xFC 0) = true ∧ Instr.wf rawWait.cfg (.regWriteIgnored 0xFC 0) = true ∧
    rawWait.phase = .pending ∧ rawWait.fault = none := by decide
theorem witness_BadCommandCompletes :
    DeviceMoves (pendingOf Config.standard [] 0x00) ∧ (pendingOf Config.standard [] 0x00).phase = .pending ∧
    (pendingOf Config.standard [] 0x00).commandFault = none ∧
    (pendingOf Config.standard [] 0x00).status.lastOp ≠ 0x01 ∧
    (pendingOf Config.standard [] 0x00).status.lastOp ≠ 0x02 :=
  ⟨.inl rfl, rfl, rfl, by decide, by decide⟩
/-- Exactly 22 header bytes admitted, and one fewer. -/
theorem witness_GetOriginalLenCompletes :
    HeaderReady (pendingOf Config.standard (helloBlock.take 22) 0x01) ∧
    ¬HeaderReady (pendingOf Config.standard (helloBlock.take 21) 0x01) := by decide
theorem witness_UnsupportedMethodCompletes :
    HeaderReady otherWait ∧ classify otherWait.cfg (parseHeader otherWait).method = .other := by decide
theorem witness_RawPathCompletes : rawWait.mem.wf ∧ PathReady .raw (fieldsOf 15 15 0xE451760F) rawWait := by
  decide +kernel
/-- The codec paths at their edges: full payloads, and compressed_len = original_len = 0. -/
theorem witness_CodecPathsComplete :
    codecAWait.mem.wf ∧ PathReady .a (fieldsOf 5 15 0xFD3A42BC) codecAWait ∧ PathReady .a (fieldsOf 0 0 0) codecAWait ∧
    codecBWait.mem.wf ∧ PathReady .b (fieldsOf 5 15 0xE451760F) codecBWait := by decide +kernel
theorem witness_DecompressCompletes :
    rawWait.mem.wf ∧ HeaderReady rawWait ∧ classify rawWait.cfg (parseHeader rawWait).method = .raw ∧
    PathReady .raw (parseHeader rawWait).fields rawWait ∧
    otherWait.mem.wf ∧ HeaderReady otherWait ∧ classify otherWait.cfg (parseHeader otherWait).method = .other := by
  decide +kernel
theorem witness_completed_decompress :
    ∃ t, exec .decompress rawWait = .next t ∧ decide (t.commandFault = none ∧ t.status.errcode = .none) = true :=
  next_of_shows (by decide +kernel)
theorem witness_HeaderIsLatched :
    rawWait.commandFault = none ∧
      ∃ t, exec .decompress rawWait = .next t ∧ decide (t.commandFault = none ∧ t.status.errcode = .none) = true :=
  ⟨rfl, witness_completed_decompress⟩
/-- V-X7: sixteen admitted bytes at the top of the address space. -/
def headerAtTop : State :=
  { rawWait with srcAddrLo := 0xFFFFFFF0, srcAddrHi := 0xFFFFFFFF, srcAdmit := [{ base := 2 ^ 64 - 16, size := 16 }] }
/-- V-G4: 21 admitted bytes. -/
def headerShort : State := { rawWait with srcAdmit := [{ base := 0x1000, size := 21 }] }
/-- A header that is ready, AddressRange at header byte 16, SrcOutOfBounds at header byte 21. -/
theorem witness_HeaderByteFaults :
    HeaderReady rawWait ∧
    (16 < headerAtTop.cfg.headerLen ∧ (∀ i < 16, ByteReady headerAtTop.srcAdmit (srcAddr headerAtTop) i) ∧
      addrSpace ≤ srcAddr headerAtTop + 16) ∧
    (21 < headerShort.cfg.headerLen ∧ (∀ i < 21, ByteReady headerShort.srcAdmit (srcAddr headerShort) i) ∧
      srcAddr headerShort + 21 < addrSpace ∧ admits headerShort.srcAdmit (srcAddr headerShort + 21) = false) := by
  decide +kernel

/-! A state for each clause of `Obligations.DestinationChecksInOrder`. -/

/-- V-X2: original_len = -1. -/
def negativeOlen : State := pendingOf Config.standard (zstd ++ [0x00, 0, 0, 0, 0, 0xFF, 0xFF, 0xFF, 0xFF, 0, 0, 0, 0]) 0x02
/-- V-X3: an ALGO_A block with compressed_len = -1. -/
def negativeClen : State := pendingOf Config.standard (zstd ++ [0x01, 0xFF, 0xFF, 0xFF, 0xFF, 0x0F, 0, 0, 0, 0, 0, 0, 0]) 0x02
/-- V-X4: 14 bytes of destination. -/
def windowShort : State := { rawWait with dstAdmit := [{ base := 0x2000, size := 14 }] }
/-- Eight bytes of destination at the top of the address space. -/
def windowAtTop : State :=
  { rawWait with dstAddrLo := 0xFFFFFFF8, dstAddrHi := 0xFFFFFFFF, dstAdmit := [{ base := 2 ^ 64 - 8, size := 8 }] }
/-- V-X5's shape: 8 of the 15 payload bytes admitted. -/
def payloadShort : State := { rawWait with srcAdmit := [{ base := 0x1000, size := 30 }] }
/-- The block placed so that payload byte 10 would lie at 2^64. -/
def payloadAtTop : State :=
  { rawWait with
    srcAddrLo := 0xFFFFFFE0, srcAddrHi := 0xFFFFFFFF, srcAdmit := [{ base := 2 ^ 64 - 32, size := 32 }]
    mem := memWriteBytes [] (2 ^ 64 - 32) (helloBlock.take 32) }
/-- V-X6: the window inside the block. -/
def windowOverlaps : State := { rawWait with dstAddrLo := 0x1010, dstAdmit := [{ base := 0x1010, size := 15 }] }

theorem witness_DestinationChecksInOrder_class :
    HeaderReady rawWait ∧ classify rawWait.cfg (parseHeader rawWait).method = .raw := by decide
theorem witness_DestinationChecksInOrder_offset : dstOffset { rawWait with dstOff := 0xFFFFFFFF } < 0 := by decide
theorem witness_DestinationChecksInOrder_olen :
    HeaderReady negativeOlen ∧ classify negativeOlen.cfg (parseHeader negativeOlen).method = .raw ∧
    0 ≤ dstOffset negativeOlen ∧ (parseHeader negativeOlen).fields.olen.toInt < 0 := by decide +kernel
theorem witness_DestinationChecksInOrder_clen :
    HeaderReady negativeClen ∧ classify negativeClen.cfg (parseHeader negativeClen).method = .a ∧
    0 ≤ dstOffset negativeClen ∧ 0 ≤ (parseHeader negativeClen).fields.olen.toInt ∧
    (parseHeader negativeClen).fields.clen.toInt < 0 := by decide +kernel
theorem witness_DestinationChecksInOrder_window :
    LengthsReady .raw (parseHeader windowShort).fields windowShort ∧
    14 < (parseHeader windowShort).fields.olen.toNat ∧
    (∀ i < 14, ByteReady windowShort.dstAdmit (windowBase windowShort).toNat i) ∧
    (windowBase windowShort).toNat + 14 < addrSpace ∧
    admits windowShort.dstAdmit ((windowBase windowShort).toNat + 14) = false := by decide +kernel
theorem witness_DestinationChecksInOrder_windowRange :
    LengthsReady .raw (parseHeader windowAtTop).fields windowAtTop ∧
    8 < (parseHeader windowAtTop).fields.olen.toNat ∧
    (∀ i < 8, ByteReady windowAtTop.dstAdmit (windowBase windowAtTop).toNat i) ∧
    addrSpace ≤ (windowBase windowAtTop).toNat + 8 := by decide +kernel
theorem witness_DestinationChecksInOrder_payload :
    HeaderReady payloadShort ∧ LengthsReady .raw (parseHeader payloadShort).fields payloadShort ∧
    WindowReady (parseHeader payloadShort).fields payloadShort ∧
    30 < payloadShort.cfg.headerLen + payloadLen .raw (parseHeader payloadShort).fields ∧
    (∀ i < 30, ByteReady payloadShort.srcAdmit (srcAddr payloadShort) i) ∧ srcAddr payloadShort + 30 < addrSpace ∧
    admits payloadShort.srcAdmit (srcAddr payloadShort + 30) = false := by decide +kernel
theorem witness_DestinationChecksInOrder_payloadRange :
    HeaderReady payloadAtTop ∧ classify payloadAtTop.cfg (parseHeader payloadAtTop).method = .raw ∧
    LengthsReady .raw (parseHeader payloadAtTop).fields payloadAtTop ∧
    WindowReady (parseHeader payloadAtTop).fields payloadAtTop ∧
    32 < payloadAtTop.cfg.headerLen + payloadLen .raw (parseHeader payloadAtTop).fields ∧
    (∀ i < 32, ByteReady payloadAtTop.srcAdmit (srcAddr payloadAtTop) i) ∧
    addrSpace ≤ srcAddr payloadAtTop + 32 := by decide +kernel
theorem witness_DestinationChecksInOrder_overlap :
    LengthsReady .raw (parseHeader windowOverlaps).fields windowOverlaps ∧
    WindowReady (parseHeader windowOverlaps).fields windowOverlaps ∧
    FootprintReady .raw (parseHeader windowOverlaps).fields windowOverlaps ∧
    ¬WindowApart .raw (parseHeader windowOverlaps).fields windowOverlaps := by decide +kernel
theorem witness_FaultMarkIsSticky :
    marked.fault = some (.contract .busyWrite) ∧ marked.phase = .pending ∧ DeviceMoves marked ∧ BlockInv marked ∧
    marked.commandFault = some { reason := .busyWrite, footprint := issuedFootprint rawWait } ∧
    ({ marked with agenda := [.reset] } : State).agenda = [.reset] ∧
    refusedThenIssued.fault = some (.refused .misaligned) ∧
    ∃ t, step { marked with agenda := [.bus (busRead 0x04)] } = .next t :=
  ⟨rfl, rfl, .inl rfl, marked_blockInv, rfl, rfl, rfl, _, rfl⟩
theorem witness_OnlyTheWindowIsWritten : ∃ t, exec .decompress rawWait = .next t :=
  witness_completed_decompress.imp fun _ h => h.1
theorem witness_ReadFootprintIsUnchanged :
    rawWait.commandFault = none ∧
    (∃ t, exec .decompress rawWait = .next t ∧ decide (t.commandFault = none ∧ t.status.errcode = .none) = true) ∧
    (footprintOf .raw (parseHeader rawWait).fields rawWait).covers 0x1000 = true ∧
    (footprintOf .raw (parseHeader rawWait).fields rawWait).covers 0x1024 = true ∧
    (footprintOf .raw (parseHeader rawWait).fields rawWait).covers 0x1025 = false :=
  ⟨rfl, witness_completed_decompress, by decide, by decide, by decide⟩
theorem witness_PathFrame :
    rawWait.commandFault = none ∧ ∃ t, exec (.methodRaw (fieldsOf 15 15 0xE451760F)) rawWait = .next t ∧
      decide (t.commandFault = none) = true :=
  ⟨rfl, next_of_shows (by decide +kernel)⟩
/-- The first and last byte read and of the window, and the bytes beside them (0x0FFF, 0x1025, 0x1FFF and
0x200F lie in neither), of a waiting command and of one that has been ended. -/
theorem witness_HostMemoryAccesses :
    (∀ s ∈ [rawWait, refusedThenIssued, marked],
      s.phase = .pending ∧ s.mem.wf ∧
      (pendingReads s).covers 0x1000 = true ∧ (pendingReads s).covers 0x1024 = true ∧
      (pendingWindow s).covers 0x2000 = true ∧ (pendingWindow s).covers 0x200E = true ∧
      ∀ a ∈ [0x0FFF, 0x1025, 0x1FFF, 0x200F],
        (pendingReads s).covers a = false ∧ (pendingWindow s).covers a = false) ∧
    rawWait.fault = none ∧ refusedThenIssued.fault ≠ none ∧ marked.fault ≠ none ∧
    rawIdle.mem.wf ∧ rawIdle.phase = .idle := by
  decide +kernel
/-- A state for each clause, with the bytes at the edges of a GET_ORIGINAL_LEN. -/
theorem witness_PendingCommandFootprints :
    (rawWait.commandFault = none ∧ rawWait.phase = .pending ∧ rawWait.status.lastOp = 0x02) ∧
    ((issueCommand 0x01 rawIdle).commandFault = none ∧ (issueCommand 0x01 rawIdle).phase = .pending ∧
      (issueCommand 0x01 rawIdle).status.lastOp = 0x01 ∧
      (pendingReads (issueCommand 0x01 rawIdle)).covers 0x100E = true ∧
      (pendingReads (issueCommand 0x01 rawIdle)).covers 0x1011 = true ∧
      (pendingReads (issueCommand 0x01 rawIdle)).covers 0x100D = false ∧
      (pendingReads (issueCommand 0x01 rawIdle)).covers 0x1012 = false) ∧
    ((issueCommand 0x00 rawIdle).commandFault = none ∧ (issueCommand 0x00 rawIdle).phase = .pending ∧
      (issueCommand 0x00 rawIdle).status.lastOp ≠ 0x01 ∧ (issueCommand 0x00 rawIdle).status.lastOp ≠ 0x02) ∧
    rawIdle.phase = .idle ∧ 0x2000 < addrSpace := by decide
/-- A store beside the footprint, which changes nothing of it, and a BusyWrite, which ends the command. -/
theorem witness_FootprintStaysWhilePending :
    rawWait.phase = .pending ∧
    (∃ t, step { rawWait with agenda := [.hostStore 0x1025 7] } = .next t ∧ decide (t.phase = .pending) = true) ∧
    ∃ t, step { rawWait with agenda := [.bus (busWrite 0x18 4)] } = .next t ∧ decide (t.phase = .pending) = true :=
  ⟨rfl, next_of_shows (by decide), _, rfl, rfl⟩
theorem witness_ChecksumBitFlipIsDetected :
    31 < 32 ∧ rawWait.mem.wf ∧ rawWait.commandFault = none ∧
      ∃ t, exec .decompress rawWait = .next t ∧ decide (t.commandFault = none ∧ t.status.errcode = .none) = true :=
  ⟨by decide, by decide +kernel, rfl, witness_completed_decompress⟩
theorem witness_MagicIsNotValidated :
    8 < rawWait.cfg.magicLen ∧ rawWait.mem.wf ∧ rawWait.commandFault = none ∧
      ∃ t, exec .decompress rawWait = .next t ∧ decide (t.commandFault = none ∧ t.status.errcode = .none) = true :=
  ⟨by decide, by decide +kernel, rfl, witness_completed_decompress⟩
theorem witness_NoStateCrossesCommands :
    AgreeOnInputs rawWait { rawWait with acc := .crc 7, result := 9, hdrCsum := 11, diagActual := 13 } ∧
    rawWait.commandFault = none ∧
    ∃ t, exec .decompress rawWait = .next t ∧ decide (t.commandFault = none ∧ t.status.errcode = .none) = true :=
  ⟨⟨⟨rfl, rfl, rfl⟩, ⟨rfl, rfl, rfl, rfl, rfl⟩, rfl, rfl⟩, rfl, witness_completed_decompress⟩
theorem witness_RoundTripLaws :
    rawWait.mem.wf ∧ hello.length ≤ 2 ^ 31 - 1 ∧ zstd.length = rawWait.cfg.magicLen ∧
    (0x0F : Word) = BitVec.ofNat 32 hello.length ∧
    memReadBytes rawWait.mem (srcAddr rawWait) rawWait.cfg.headerLen =
      encodeHeader 0x00 (fieldsOf 15 15 0xE451760F) ∧
    classify rawWait.cfg 0x00 = .raw ∧ PathReady .raw (fieldsOf 15 15 0xE451760F) rawWait ∧
    readPayload hello.length rawWait = hello ∧
    (0xE451760F : Word) = digest rawWait.cfg (ownerEngine rawWait.cfg) hello := by decide +kernel
/-- The codec clauses, up to what they assume of the primitive, which is opaque (00_scope.md R12). -/
theorem witness_RoundTripLaws_codecs :
    (codecAWait.mem.wf ∧
      memReadBytes codecAWait.mem (srcAddr codecAWait) codecAWait.cfg.headerLen =
        encodeHeader codecAWait.cfg.codeA (fieldsOf 5 15 0xFD3A42BC) ∧
      classify codecAWait.cfg codecAWait.cfg.codeA = .a ∧ PathReady .a (fieldsOf 5 15 0xFD3A42BC) codecAWait ∧
      (0xFD3A42BC : Word) = fastDigest codecAWait.cfg hello) ∧
    codecBWait.mem.wf ∧
      memReadBytes codecBWait.mem (srcAddr codecBWait) codecBWait.cfg.headerLen =
        encodeHeader codecBWait.cfg.codeB (fieldsOf 5 15 0xE451760F) ∧
      classify codecBWait.cfg codecBWait.cfg.codeB = .b ∧ PathReady .b (fieldsOf 5 15 0xE451760F) codecBWait ∧
      (0xE451760F : Word) = crc32 hello := by decide +kernel

end Sys2Proof.Tests
end

section
/-! PROOFS. The statements of the family 10_state.md: the places of register fields, what a step runs, what the
bus instructions leave, reset, the invariant of the block, and the fault mark. -/

namespace Sys2Proof.Machine

/-! ## The places of register fields -/

/-- A field placed above the bits of `a` adds its value at its place. -/
theorem toNat_or_shiftLeft {a b : Word} {n : Nat} (ha : a.toNat < 2 ^ n) (hb : b.toNat * 2 ^ n < 2 ^ 32) :
    (a ||| b <<< n).toNat = a.toNat + 2 ^ n * b.toNat := by
  rw [BitVec.toNat_or, BitVec.toNat_shiftLeft, Nat.shiftLeft_eq, Nat.mod_eq_of_lt hb, Nat.or_comm,
    ← Nat.shiftLeft_eq, ← Nat.shiftLeft_add_eq_or_of_lt ha, Nat.shiftLeft_eq]
  ring

theorem flagBit_toNat (b : Bool) : (flagBit b).toNat = if b then 1 else 0 := by
  cases b <;> rfl

theorem flagBit_toNat_lt (b : Bool) : (flagBit b).toNat < 2 := by
  cases b <;> decide

theorem errValue_toNat_lt (e : ErrCode) : (errValue e).toNat < 16 := by
  cases e <;> decide

theorem byteWord_toNat (b : Byte) : (b.setWidth 32 : Word).toNat = b.toNat :=
  BitVec.toNat_setWidth_of_le (by decide)

/-- STATUS as a number: its fields at their places (10_state.md R26). -/
theorem statusWord_toNat (st : Status) :
    (statusWord st).toNat = (flagBit st.busy).toNat + 2 * (flagBit st.done).toNat + 4 * (flagBit st.err).toNat
      + 16 * (errValue st.errcode).toNat + 256 * st.lastOp.toNat := by
  have hb := flagBit_toNat_lt st.busy
  have hd := flagBit_toNat_lt st.done
  have he := flagBit_toNat_lt st.err
  have hc := errValue_toNat_lt st.errcode
  have hl := st.lastOp.isLt
  have h1 : (flagBit st.busy ||| flagBit st.done <<< 1).toNat = _ := toNat_or_shiftLeft (by omega) (by omega)
  have h2 : (flagBit st.busy ||| flagBit st.done <<< 1 ||| flagBit st.err <<< 2).toNat = _ :=
    toNat_or_shiftLeft (by omega) (by omega)
  have h3 : (flagBit st.busy ||| flagBit st.done <<< 1 ||| flagBit st.err <<< 2
      ||| errValue st.errcode <<< 4).toNat = _ := toNat_or_shiftLeft (by omega) (by omega)
  rw [statusWord, toNat_or_shiftLeft (by omega) (by rw [byteWord_toNat]; omega), h3, h2, h1, byteWord_toNat]
  omega

/-- CFG0 as a number: its fields at their places (10_state.md R41). -/
theorem cfg0Word_toNat (c : Config) :
    (cfg0Word c).toNat = c.magicLen + 256 * (flagBit (c.owner == .b)).toNat
      + 512 * (flagBit c.acceptForeign).toNat := by
  have hm := c.magic_le
  have ho := flagBit_toNat_lt (c.owner == .b)
  have ha := flagBit_toNat_lt c.acceptForeign
  have h0 : (BitVec.ofNat 32 c.magicLen).toNat = c.magicLen := by
    rw [BitVec.toNat_ofNat]
    omega
  have h1 : (BitVec.ofNat 32 c.magicLen ||| flagBit (c.owner == .b) <<< 8).toNat = _ :=
    toNat_or_shiftLeft (by omega) (by omega)
  rw [cfg0Word, toNat_or_shiftLeft (by omega) (by omega), h1, h0]
  omega

/-- CFG1 as a number: the three method codes at their places (10_state.md R42). -/
theorem cfg1Word_toNat (c : Config) :
    (cfg1Word c).toNat = c.codeRaw.toNat + 256 * c.codeA.toNat + 65536 * c.codeB.toNat := by
  have hr := c.codeRaw.isLt
  have ha := c.codeA.isLt
  have hb := c.codeB.isLt
  simp only [← byteWord_toNat] at hr ha hb
  have h1 : (c.codeRaw.setWidth 32 ||| c.codeA.setWidth 32 <<< 8 : Word).toNat = _ :=
    toNat_or_shiftLeft (by omega) (by omega)
  rw [cfg1Word, toNat_or_shiftLeft (by omega) (by omega), h1]
  simp only [byteWord_toNat]
  omega

/-- Settles O20: each field stands above the bits of the fields before it, so the word is their sum. -/
theorem statusFieldPlaces : Obligations.StatusFieldPlaces := by
  refine fun st => ⟨?_, rfl, rfl, rfl, rfl, rfl⟩
  rw [statusWord_toNat]
  simp only [flagBit_toNat]
  split_ifs <;> rfl

/-- Settles O21: CFG0 and CFG1 are the sums of their fields; CFG2 and CFG3 are the build's own words. -/
theorem configRegisterFields : Obligations.ConfigRegisterFields := by
  refine fun s => ⟨?_, cfg1Word_toNat s.cfg, rfl, rfl⟩
  refine (cfg0Word_toNat s.cfg).trans ?_
  simp only [flagBit_toNat, beq_iff_eq]
  split_ifs <;> rfl

/-! ## Reserved bits and reserved offsets -/

/-- Bit k of a word, as arithmetic on its number. -/
theorem getLsbD_eq_false_iff (w : Word) (k : Nat) : w.getLsbD k = false ↔ w.toNat / 2 ^ k % 2 = 0 := by
  rw [← BitVec.testBit_toNat, Nat.testBit_eq_decide_div_mod_eq, decide_eq_false_iff_not]
  omega

theorem getLsbD_eq_false_of_toNat_lt {w : Word} {n k : Nat} (hw : w.toNat < 2 ^ n) (hk : n ≤ k) :
    w.getLsbD k = false := by
  rw [← BitVec.testBit_toNat]
  exact Nat.testBit_lt_two_pow (hw.trans_le (Nat.pow_le_pow_right (by decide) hk))

/-- STATUS [3] and [31:16] are 0 (10_state.md R26). -/
theorem statusWord_reserved (st : Status) {k : Nat} (hk : k = 3 ∨ 16 ≤ k) : (statusWord st).getLsbD k = false := by
  have h := statusWord_toNat st
  have hb := flagBit_toNat_lt st.busy
  have hd := flagBit_toNat_lt st.done
  have he := flagBit_toNat_lt st.err
  have hc := errValue_toNat_lt st.errcode
  have hl := st.lastOp.isLt
  rcases hk with rfl | hk
  · rw [getLsbD_eq_false_iff]
    omega
  · exact getLsbD_eq_false_of_toNat_lt (by omega) hk

/-- CFG0 [7:5] and [31:10] are 0 (10_state.md R41). -/
theorem cfg0Word_reserved (c : Config) {k : Nat} (hk : 5 ≤ k ∧ k ≤ 7 ∨ 10 ≤ k) :
    (cfg0Word c).getLsbD k = false := by
  have h := cfg0Word_toNat c
  have hm := c.magic_le
  have ho := flagBit_toNat_lt (c.owner == .b)
  have ha := flagBit_toNat_lt c.acceptForeign
  rcases hk with ⟨h5, h7⟩ | hk
  · rw [getLsbD_eq_false_iff]
    interval_cases k <;> omega
  · exact getLsbD_eq_false_of_toNat_lt (by omega) hk

/-- CFG1 [31:24] are 0 (10_state.md R42). -/
theorem cfg1Word_reserved (c : Config) {k : Nat} (hk : 24 ≤ k) : (cfg1Word c).getLsbD k = false := by
  have h := cfg1Word_toNat c
  have hr := c.codeRaw.isLt
  have ha := c.codeA.isLt
  have hb := c.codeB.isLt
  exact getLsbD_eq_false_of_toNat_lt (by omega) hk

/-- No register stands at a reserved offset (10_state.md R44). -/
theorem regValue_reserved {off : Byte} (h : off.toNat = 0x48 ∨ off.toNat = 0x4C ∨ 0x60 ≤ off.toNat) (s : State) :
    regValue off s = 0 := by
  unfold regValue
  split
  case h_22 => rfl
  all_goals omega

/-- In IDLE a read of an aligned offset returns the register's value (43_register_access.md R200). -/
theorem exec_regRead_idle {s : State} {off : Byte} (hp : s.phase = .idle) (ho : off.toNat % 4 = 0) :
    exec (.regRead off) s = .next { s with readData := regValue off s } := by
  simp [exec, execRegRead, hp, ho]

/-- In IDLE a write that has no row of its own changes nothing (43_register_access.md R202). -/
theorem exec_regWriteIgnored_idle {s : State} {off : Byte} (hp : s.phase = .idle) (ho : off.toNat % 4 = 0)
    (d : Word) : exec (.regWriteIgnored off d) s = .next s := by
  simp [exec, execRegWriteIgnored, ho, whenIdle_idle hp]

/-- Settles O19: reserved offsets hold no register, and reserved bits lie outside every field. -/
theorem reservedReadsZeroIgnoresWrites : Obligations.ReservedReadsZeroIgnoresWrites := by
  intro s hp
  refine ⟨fun off ho hr => ⟨?_, exec_regWriteIgnored_idle hp ho⟩,
    ⟨exec_regRead_idle hp rfl, fun d d' h => ?_⟩, fun k => statusWord_reserved s.status,
    fun k hk => ?_, fun k => cfg0Word_reserved s.cfg,
    fun k => cfg1Word_reserved s.cfg, fun d off ho => ?_⟩
  · rw [exec_regRead_idle hp ho, regValue_reserved hr]
  · simp only [exec, execRegWriteCmd, h]
  · have h : (regValue 0x20 s).toNat = s.hdrMethod.toNat := byteWord_toNat _
    exact getLsbD_eq_false_of_toNat_lt (h.trans_lt s.hdrMethod.isLt) hk
  · refine exec_regWriteIgnored_idle hp ?_ d
    fin_cases ho <;> rfl

/-! ## What a step runs -/

theorem step_bus {s : State} {a : BusAccess} {rest : List Event} {i : Instr} (h : s.agenda = .bus a :: rest)
    (hi : decodeBus a = .ok i) : step s = exec i (popMove s) := by
  simp [step, fetch, h, hi]

theorem step_reset {s : State} {rest : List Event} (h : s.agenda = .reset :: rest) :
    step s = .next (hardwareReset (pendingWindow s) (popMove s)) := by
  simp [step, fetch, h]

theorem step_command {s : State} (hd : DeviceMoves s) (hp : s.phase = .pending) (hc : s.commandFault = none) :
    step s = exec (decodeCmd (s.status.lastOp.setWidth 32)) (popMove s) := by
  simp [step, fetch_device hd, deviceTurn, hp, hc]

theorem step_ended {s : State} {e : CommandFault} (hd : DeviceMoves s) (hp : s.phase = .pending)
    (hc : s.commandFault = some e) : step s = .fault (.faulted e.reason) := by
  simp [step, fetch_device hd, deviceTurn, hp, hc]

/-- Only the OPCODE of a command word is decoded (30_encoding.md R100). -/
theorem decodeCmd_congr {w w' : Word} (h : w.setWidth 8 = w'.setWidth 8) : decodeCmd w = decodeCmd w' := by
  simp only [decodeCmd, h]

/-- Settles O7: the bus access, or the command that LAST_OP names, runs on the state without its move. -/
theorem stepRunsDecodedInstruction : Obligations.StepRunsDecodedInstruction := by
  refine ⟨fun s a rest i ha hi => ?_, fun s w i hd hp hc hw hi => ?_⟩
  · rw [step_bus ha hi, popMove, ha, List.tail_cons]
  · have hop : decodeCmd w = decodeCmd (s.status.lastOp.setWidth 32) := decodeCmd_congr (by simp [hw])
    obtain rfl : decodeCmd w = i := by simpa [decode] using hi
    rw [step_command hd hp hc, hop, popMove]

/-! ## Reset -/

theorem statusWord_atReset : statusWord Status.atReset = 0 := by decide

/-- Settles O12: the reset input is `hardwareReset`, whose fields are the reset values. -/
theorem resetInputResetsBlock : Obligations.ResetInputResetsBlock := by
  intro s rest ha
  refine ⟨_, step_reset ha, by simp [ha], rfl, rfl, rfl, statusWord_atReset, rfl, rfl, rfl, rfl, rfl, rfl, rfl, rfl,
    rfl, rfl, rfl, rfl, rfl, rfl, rfl, rfl, ⟨rfl, rfl, rfl⟩, fun a hout => ?_, fun hp => ?_⟩
  · exact memRead_memHavoc_outside hout _ _
  · simp [pendingWindow_idle hp]

/-! ## What a bus instruction does -/

/-- The two states agree on everything the invariant reads beside memory. -/
structure SameBlock (s t : State) : Prop where
  phase : t.phase = s.phase := by rfl
  fault : t.fault = s.fault := by rfl
  commandFault : t.commandFault = s.commandFault := by rfl
  ckState : t.ckState = s.ckState := by rfl
  status : t.status = s.status := by rfl
  result : t.result = s.result := by rfl
  cfg : t.cfg = s.cfg := by rfl
  magic : ∀ i, magicByte t i = magicByte s i := by exact fun _ => rfl

/-- A state that differs from `s` in the argument registers only (10_state.md R28 to R30). -/
def DiffersInArguments (s t : State) : Prop :=
  ∃ srcLo srcHi dstLo dstHi off, t =
    { s with srcAddrLo := srcLo, srcAddrHi := srcHi, dstAddrLo := dstLo, dstAddrHi := dstHi, dstOff := off }

theorem DiffersInArguments.sameBlock {s t : State} (h : DiffersInArguments s t) : SameBlock s t := by
  obtain ⟨_, _, _, _, _, rfl⟩ := h
  exact {}

theorem DiffersInArguments.mem {s t : State} (h : DiffersInArguments s t) : t.mem = s.mem := by
  obtain ⟨_, _, _, _, _, rfl⟩ := h
  rfl

/-- The effect of a register write that is not refused, in IDLE: a CMD write issues its command, every other
one changes argument registers at most (43_register_access.md R201, R202). -/
inductive WriteEffect (s : State) : Instr → State → Prop where
  | command (d : Word) : WriteEffect s (.regWriteCmd d) (issueCommand (d.setWidth 8) s)
  | arguments {i : Instr} {t : State} (hi : ∀ d, i ≠ .regWriteCmd d) (h : DiffersInArguments s t) :
      WriteEffect s i t

/-- A register write waits for IDLE to have its effect, or is refused at a misaligned offset. -/
theorem exec_regWrite {i : Instr} (hi : isRegWrite i = true) (s : State) :
    (∃ t, exec i s = whenIdle s t ∧ WriteEffect s i t) ∨
      exec i s = .next (refuseAccess .misaligned .write s) := by
  cases i with
  | regWriteCmd d => exact .inl ⟨_, rfl, .command d⟩
  | regWriteSrcAddrLo d => exact .inl ⟨_, rfl, .arguments nofun ⟨d, _, _, _, _, rfl⟩⟩
  | regWriteSrcAddrHi d => exact .inl ⟨_, rfl, .arguments nofun ⟨_, d, _, _, _, rfl⟩⟩
  | regWriteDstAddrLo d => exact .inl ⟨_, rfl, .arguments nofun ⟨_, _, d, _, _, rfl⟩⟩
  | regWriteDstAddrHi d => exact .inl ⟨_, rfl, .arguments nofun ⟨_, _, _, d, _, rfl⟩⟩
  | regWriteDstOff d => exact .inl ⟨_, rfl, .arguments nofun ⟨_, _, _, _, d, rfl⟩⟩
  | regWriteIgnored off d =>
    by_cases ho : off.toNat % 4 = 0
    · exact .inl ⟨s, by simp [exec, execRegWriteIgnored, ho], .arguments nofun ⟨_, _, _, _, _, rfl⟩⟩
    · exact .inr (by simp [exec, execRegWriteIgnored, ho])
  | _ => cases hi

/-- What a register write leads to: its effect in IDLE, BusyWrite while PENDING (43_register_access.md R206),
or a refusal. -/
theorem exec_regWrite_cases {i : Instr} (hi : isRegWrite i = true) (s : State) :
    (∃ t, exec i s = .next t ∧ WriteEffect s i t) ∨
      exec i s = .next (takeContractFault .busyWrite (pendingFootprint s) s) ∨
      exec i s = .next (refuseAccess .misaligned .write s) := by
  rcases exec_regWrite hi s with ⟨t, e, ht⟩ | e
  · rcases whenIdle_cases s t with ⟨-, hw⟩ | ⟨-, hw⟩
    · exact .inl ⟨t, e.trans hw, ht⟩
    · exact .inr (.inl (e.trans hw))
  · exact .inr (.inr e)

theorem isRegWrite_writeInstr (off : Byte) (d : Word) : isRegWrite (writeInstr off d) = true := by
  unfold writeInstr
  split_ifs <;> rfl

/-- A bus access that is not refused is a register read or a register write. -/
theorem decodeBus_read_or_write {a : BusAccess} {i : Instr} (h : decodeBus a = .ok i) :
    (∃ off, i = .regRead off) ∨ isRegWrite i = true := by
  obtain ⟨-, -, -, ⟨-, rfl⟩ | ⟨-, rfl⟩⟩ := decodeBus_ok h
  · exact .inl ⟨_, rfl⟩
  · exact .inr (isRegWrite_writeInstr _ _)

/-- A contract fault ends the command, so a state in which none is ended is not its result. -/
theorem takeContractFault_commandFault_ne_none (r : ContractFault) (p : Footprint) (s : State) :
    (takeContractFault r p s).commandFault ≠ none := by
  simp [endCommand_eq]

/-- Settles O16: reads and argument writes leave STATUS and the phase; a CMD write issues its command. -/
theorem onlyCommandsChangeStatus : Obligations.OnlyCommandsChangeStatus := by
  refine ⟨fun s t off h => ?_, fun s t _ ht => ⟨fun i hi hcmd h => ?_, fun d h => ?_⟩⟩
  · rcases execRegRead_cases off s with ⟨-, v, n, e⟩ | ⟨-, e⟩ <;> cases e.symm.trans h <;> exact ⟨rfl, rfl⟩
  · rcases exec_regWrite_cases hi s with ⟨u, e, hu⟩ | e | e <;> cases e.symm.trans h
    · cases hu with
      | command d => exact absurd rfl (hcmd d)
      | arguments _ hu => exact ⟨hu.sameBlock.status, hu.sameBlock.phase⟩
    · exact absurd ht (takeContractFault_commandFault_ne_none _ _ _)
    · exact ⟨rfl, rfl⟩
  · rcases whenIdle_cases s (issueCommand (d.setWidth 8) s) with ⟨-, e⟩ | ⟨-, e⟩ <;> cases e.symm.trans h
    · exact ⟨rfl, rfl, rfl⟩
    · exact absurd ht (takeContractFault_commandFault_ne_none _ _ _)

/-! ## The invariant: states that agree on what it reads -/

theorem BlockInv.of_sameBlock {s t : State} (h : BlockInv s) (hb : SameBlock s t) (hw : t.mem.wf)
    (hs : t.mem.inSpace) : BlockInv t where
  memory := hw
  inSpace := hs
  accumulator := hb.ckState.trans h.accumulator
  busy := by rw [hb.status, hb.phase]; exact h.busy
  faulted := by rw [hb.fault, hb.commandFault]; exact h.faulted
  ended := by rw [hb.fault, hb.commandFault, hb.phase]; exact h.ended
  status := by rw [hb.commandFault, hb.status]; exact h.status
  result := by rw [hb.fault, hb.status, hb.result]; exact h.result
  magic := by simp only [hb.fault, hb.cfg, hb.magic]; exact h.magic

theorem popMove_inv {s : State} (h : BlockInv s) : BlockInv (popMove s) :=
  h.of_sameBlock {} h.memory h.inSpace

theorem DiffersInArguments.inv {s t : State} (hd : DiffersInArguments s t) (h : BlockInv s) : BlockInv t :=
  h.of_sameBlock hd.sameBlock (hd.mem ▸ h.memory) (hd.mem ▸ h.inSpace)

/-! ## The invariant: STATUS's laws -/

theorem statusAtReset_ok : StatusOk Status.atReset := by
  constructor <;> decide

theorem statusIssued_ok (op : Byte) : StatusOk (statusIssued op) where
  busy_clear := fun _ => ⟨rfl, rfl, rfl⟩
  done_not_busy := fun h => nomatch h
  err_iff := by simp [statusIssued]

theorem statusCompleted_ok (code : ErrCode) (st : Status) : StatusOk (statusCompleted code st) where
  busy_clear := fun h => nomatch h
  done_not_busy := fun _ => rfl
  err_iff := by simp [statusCompleted]

/-! ## The invariant: reset -/

theorem magicByte_of_zero {s : State} (h0 : s.hdrMagic0 = 0) (h1 : s.hdrMagic1 = 0) (h2 : s.hdrMagic2 = 0)
    (h3 : s.hdrMagic3 = 0) {i : Nat} (hi : i < 16) : magicByte s i = 0 := by
  simp only [magicByte, h0, h1, h2, h3]
  interval_cases i <;> rfl

theorem launch_inv (c : Config) {m : Memory} (src dst : List Region) (agenda : List Event) (hw : m.wf)
    (hs : m.inSpace) : BlockInv (State.launch c m src dst agenda) where
  memory := hw
  inSpace := hs
  accumulator := rfl
  busy := by simp [State.launch, Status.atReset]
  faulted := fun _ h => by cases h
  ended := fun h => absurd rfl h
  status := fun _ => statusAtReset_ok
  result := fun _ h => absurd rfl h
  magic := fun _ _ _ hi => magicByte_of_zero rfl rfl rfl rfl hi

/-- Settles O13: every register that the invariant speaks of is 0 right after reset. -/
theorem resetMeetsInvariant : Obligations.ResetMeetsInvariant :=
  ⟨launch_inv _ _ _ _ ⟨.nil, by simp⟩ (by simp), fun c _ src dst agenda => launch_inv c src dst agenda⟩

theorem hardwareReset_inv {s : State} (h : BlockInv s) (w : Window) : BlockInv (hardwareReset w s) :=
  have hw := memHavoc_wf h.memory s.draws w
  have hs := memHavoc_inSpace h.inSpace s.draws w
  (launch_inv s.cfg s.srcAdmit s.dstAdmit s.agenda hw hs).of_sameBlock
    {} hw hs

/-! ## The invariant: the fault mark -/

theorem markFault_ne_none (c : FaultCause) (old : Option FaultCause) : markFault c old ≠ none := by
  simp [markFault_eq]

/-- A contract fault needs nothing of the registers: it leaves them free, and the command ended. -/
theorem takeContractFault_inv {s : State} (hw : s.mem.wf) (hs : s.mem.inSpace) (hck : s.ckState = .idle)
    (r : ContractFault) (p : Footprint) : BlockInv (takeContractFault r p s) where
  memory := memHavoc_wf hw _ _
  inSpace := memHavoc_inSpace hs _ _
  accumulator := hck
  busy := by simp
  faulted := fun _ _ => takeContractFault_commandFault_ne_none r p s
  ended := fun _ => ⟨rfl, markFault_ne_none _ _⟩
  status := fun h => absurd h (takeContractFault_commandFault_ne_none r p s)
  result := fun h => absurd h (markFault_ne_none _ _)
  magic := fun h => absurd h (markFault_ne_none _ _)

theorem refuseAccess_inv {s : State} (h : BlockInv s) (e : DecodeError) (dir : Dir) :
    BlockInv (refuseAccess e dir s) where
  memory := h.memory
  inSpace := h.inSpace
  accumulator := h.accumulator
  busy := h.busy
  faulted := fun r hr => h.faulted r (by
    rw [refuseAccess_fault] at hr
    cases hf : s.fault <;> simp_all [markFault])
  ended := fun hc => ⟨(h.ended hc).1, markFault_ne_none _ _⟩
  status := h.status
  result := fun hf => absurd hf (markFault_ne_none _ _)
  magic := fun hf => absurd hf (markFault_ne_none _ _)

/-! ## The invariant: completing a command -/

/-- What a completion needs of the state it is made in: a command that no contract fault has ended, and the
parts of the invariant that STATUS and RESULT play no part in. -/
structure Completable (s : State) : Prop where
  memory : s.mem.wf
  inSpace : s.mem.inSpace
  accumulator : s.ckState = .idle
  notEnded : s.commandFault = none
  noContract : ∀ r, s.fault ≠ some (.contract r)
  magic : s.fault = none → ∀ i, s.cfg.magicLen ≤ i → i < 16 → magicByte s i = 0

theorem BlockInv.completable {s : State} (h : BlockInv s) (hc : s.commandFault = none) : Completable s where
  memory := h.memory
  inSpace := h.inSpace
  accumulator := h.accumulator
  notEnded := hc
  noContract := fun r hf => h.faulted r hf hc
  magic := h.magic

/-- A completion whose RESULT is 0 unless the code is NONE establishes the invariant (41_dispatch.md R155). -/
theorem completeDiag_inv {s : State} (h : Completable s) {code : ErrCode} {r : Word} (hr : code ≠ .none → r = 0)
    (x y : Word) : BlockInv (completeDiag code r x y s) where
  memory := h.memory
  inSpace := h.inSpace
  accumulator := h.accumulator
  busy := by simp [statusCompleted]
  faulted := fun c hc => absurd hc (h.noContract c)
  ended := fun hc => absurd h.notEnded hc
  status := fun _ => statusCompleted_ok code s.status
  result := fun _ => hr
  magic := h.magic

theorem Completable.runAccumulator {s : State} (h : Completable s) (e : Engine) (bs : List Byte) :
    Completable (runAccumulator e bs s) where
  memory := h.memory
  inSpace := h.inSpace
  accumulator := rfl
  notEnded := h.notEnded
  noContract := h.noContract
  magic := h.magic

/-- Every window byte of a ready path lies in the address space. -/
theorem Completable.writeWindow {s : State} (h : Completable s) {f : Fields} (hr : WindowReady f s)
    {bs : List Byte} (hl : bs.length = f.olen.toNat) : Completable (writeWindow bs s) where
  memory := memWriteBytes_wf h.memory _ _
  inSpace := memWriteBytes_inSpace h.inSpace _ _ fun i hi => (hr i (hl ▸ hi)).1
  accumulator := h.accumulator
  notEnded := h.notEnded
  noContract := h.noContract
  magic := h.magic

/-- A magic of at most M bytes leaves the positions past M at 0 (10_state.md R36). -/
theorem Completable.latchHeader {s : State} (h : Completable s) {hd : Header}
    (hm : hd.fields.magic.length ≤ s.cfg.magicLen) : Completable (latchHeader hd s) where
  memory := h.memory
  inSpace := h.inSpace
  accumulator := h.accumulator
  notEnded := h.notEnded
  noContract := h.noContract
  magic := fun _ i hi hlt => by
    rw [magicByte_latchHeader hd s hlt, byteAt, List.getD_eq_default _ _ (hm.trans hi)]

theorem verify_inv {s : State} (h : Completable s) (e : Engine) (f : Fields) : BlockInv (verify e f s) := by
  rcases verify_cases e f s with ⟨-, he⟩ | ⟨-, he⟩ <;> rw [he]
  · exact completeDiag_inv (h.runAccumulator _ _) (fun hc => absurd rfl hc) _ _
  · exact completeDiag_inv (h.runAccumulator _ _) (fun _ => rfl) _ _

theorem finishPrim_inv {s : State} (h : Completable s) {r : PrimResult} {f : Fields} (hw : WindowReady f s)
    (hl : r.out.length = f.olen.toNat) (e : Engine) : BlockInv (finishPrim r e f s) := by
  rcases finishPrim_cases r e f s with ⟨-, he⟩ | ⟨-, he⟩ <;> rw [he]
  · exact verify_inv (h.writeWindow hw hl) e f
  · exact completeDiag_inv (h.writeWindow hw hl) (fun _ => rfl) _ _

/-! ## The invariant: outcomes -/

/-- An outcome is no next state that breaks the invariant. -/
def MeetsInv (o : Host.Outcome State Fault Refusal) : Prop := ∀ t, o = .next t → BlockInv t

theorem meetsInv_next {t : State} (h : BlockInv t) : MeetsInv (.next t) := fun _ e => by
  cases e
  exact h

theorem whenDestinationOk_inv {s after : State} (h : Completable s) {cls : MethodClass} {f : Fields}
    (ha : WindowReady f s → BlockInv after) : MeetsInv (whenDestinationOk cls f s after) := by
  rcases whenDestinationOk_cases cls f s after with ⟨⟨-, hw, -⟩, e⟩ | ⟨r, -, e⟩ <;> rw [e]
  · exact meetsInv_next (ha hw)
  · exact meetsInv_next (takeContractFault_inv h.memory h.inSpace h.accumulator _ _)

theorem methodInstr_inv {s : State} (h : Completable s) (c : Config) (hd : Header) :
    MeetsInv (exec (methodInstr c hd) s) := by
  rcases methodInstr_cases c hd with ⟨-, e⟩ | ⟨-, e⟩ | ⟨-, e⟩ | ⟨-, e⟩ <;> rw [e]
  · exact whenDestinationOk_inv h fun hw =>
      verify_inv (h.writeWindow hw (memReadBytes_length _ _ _)) _ _
  · exact whenDestinationOk_inv h fun hw => finishPrim_inv h hw (primA_out_length _ _) _
  · exact whenDestinationOk_inv h fun hw => finishPrim_inv h hw (primB_out_length _ _) _
  · exact meetsInv_next (completeDiag_inv h (fun _ => rfl) _ _)

theorem execGetOriginalLen_inv {s : State} (h : Completable s) : MeetsInv (execGetOriginalLen s) := by
  unfold execGetOriginalLen
  cases checkHeader s with
  | some r => exact meetsInv_next (takeContractFault_inv h.memory h.inSpace h.accumulator _ _)
  | none =>
    have hc := completeDiag_inv h (code := .none) (r := readField s (s.cfg.magicLen + 5)) (absurd rfl ·) 0 0
    exact meetsInv_next (hc.of_sameBlock {} h.memory h.inSpace)

theorem execDecompress_inv {s : State} (h : Completable s) : MeetsInv (execDecompress s) := by
  rcases execDecompress_cases s with ⟨-, e⟩ | ⟨r, -, e⟩ <;> rw [e]
  · rw [dispatchMethod_eq_exec]
    exact methodInstr_inv (h.latchHeader (memReadBytes_length _ _ _).le) _ _
  · exact meetsInv_next (takeContractFault_inv h.memory h.inSpace h.accumulator _ _)

/-- The device step of a PENDING command that no contract fault has ended. -/
theorem command_inv {s : State} (h : Completable s) (w : Word) : MeetsInv (exec (decodeCmd w) s) := by
  rcases decodeCmd_cases w with ⟨-, e⟩ | ⟨-, e⟩ | ⟨-, -, e⟩ <;> rw [e]
  · exact execGetOriginalLen_inv h
  · exact execDecompress_inv h
  · exact meetsInv_next (completeDiag_inv h (fun _ => rfl) _ _)

/-! ## The invariant: the host's moves -/

theorem issueCommand_inv {s : State} (h : BlockInv s) (op : Byte) : BlockInv (issueCommand op s) where
  memory := h.memory
  inSpace := h.inSpace
  accumulator := h.accumulator
  busy := by simp [statusIssued]
  faulted := h.faulted
  ended := fun hc => ⟨rfl, (h.ended hc).2⟩
  status := fun _ => statusIssued_ok op
  result := fun _ he => absurd rfl he
  magic := h.magic

theorem regRead_inv {s : State} (h : BlockInv s) (off : Byte) : MeetsInv (exec (.regRead off) s) := by
  rcases execRegRead_cases off s with ⟨-, v, n, e⟩ | ⟨-, e⟩ <;> rw [exec, e]
  · exact meetsInv_next (h.of_sameBlock {} h.memory h.inSpace)
  · exact meetsInv_next (refuseAccess_inv h _ _)

theorem regWrite_inv {s : State} (h : BlockInv s) {i : Instr} (hi : isRegWrite i = true) :
    MeetsInv (exec i s) := by
  rcases exec_regWrite_cases hi s with ⟨t, e, ht⟩ | e | e <;> rw [e]
  · cases ht with
    | command d => exact meetsInv_next (issueCommand_inv h _)
    | arguments _ hd => exact meetsInv_next (hd.inv h)
  · exact meetsInv_next (takeContractFault_inv h.memory h.inSpace h.accumulator _ _)
  · exact meetsInv_next (refuseAccess_inv h _ _)

theorem hostLoad_inv {s : State} (h : BlockInv s) (a : Addr) : MeetsInv (hostLoad a s) := by
  rcases hostLoad_cases a s with ⟨-, e⟩ | ⟨-, e⟩ <;> rw [e] <;>
    exact meetsInv_next (h.of_sameBlock {} h.memory h.inSpace)

theorem hostStore_inv {s : State} (h : BlockInv s) (a : Addr) (b : Byte) : MeetsInv (hostStore a b s) := by
  have stored (v : Byte) : BlockInv { s with mem := memWrite s.mem a.toNat v } :=
    h.of_sameBlock {} (memWrite_wf h.memory _ v)
      (memWrite_inSpace h.inSpace a.isLt v)
  rcases hostStore_cases a b s with ⟨-, e⟩ | ⟨-, -, e⟩ <;> rw [e]
  · have hf := stored (Config.freeMem s.draws a.toNat)
    exact meetsInv_next (takeContractFault_inv hf.memory hf.inSpace hf.accumulator _ _)
  · exact meetsInv_next (stored b)

/-- Settles O14, move by move: each keeps the invariant on the state from which it has been taken. -/
theorem stepKeepsInvariant : Obligations.StepKeepsInvariant := by
  intro s t h hstep
  have hpop := popMove_inv h
  rcases step_cases hstep with ⟨-, -, rfl⟩ | ⟨-, -, hc, e⟩ | ⟨a, _, i, -, hi, e⟩ | ⟨a, _, d, -, -, rfl⟩ |
    ⟨a, _, -, e⟩ | ⟨a, b, _, -, e⟩ | ⟨_, -, rfl⟩
  · exact hpop
  · exact command_inv (hpop.completable hc) _ t e
  · rcases decodeBus_read_or_write hi with ⟨off, rfl⟩ | hw
    · exact regRead_inv hpop off t e
    · exact regWrite_inv hpop hw t e
  · exact refuseAccess_inv hpop d a.dir
  · exact hostLoad_inv hpop a t e
  · exact hostStore_inv hpop a b t e
  · exact hardwareReset_inv hpop _

/-! ## The fault mark stays -/

/-- The first cause stays (10_state.md R23). -/
theorem markFault_of_marked {c : FaultCause} {old : Option FaultCause} (h : old = some c) (new : FaultCause) :
    markFault new old = some c := by
  rw [h, markFault]

theorem command_keeps_mark {s t : State} {c : FaultCause} (h : s.fault = some c)
    (e : exec (decodeCmd (s.status.lastOp.setWidth 32)) s = .next t) : t.fault = some c := by
  rcases command_ends s with ⟨u, hu, hcomp⟩ | ⟨r, u, hlatch, hu⟩ <;> cases hu.symm.trans e
  · exact hcomp.fault.trans h
  · exact markFault_of_marked (by rcases hlatch with rfl | rfl <;> exact h) _

theorem busInstr_keeps_mark {s t : State} {c : FaultCause} (h : s.fault = some c) {a : BusAccess} {i : Instr}
    (hi : decodeBus a = .ok i) (e : exec i s = .next t) : t.fault = some c := by
  rcases decodeBus_read_or_write hi with ⟨off, rfl⟩ | hw
  · rcases execRegRead_cases off s with ⟨-, v, n, hu⟩ | ⟨-, hu⟩ <;> cases hu.symm.trans e
    · exact h
    · exact markFault_of_marked h _
  · rcases exec_regWrite_cases hw s with ⟨u, hu, heff⟩ | hu | hu <;> cases hu.symm.trans e
    · cases heff with
      | command d => exact h
      | arguments _ hd => exact hd.sameBlock.fault.trans h
    · exact markFault_of_marked h _
    · exact markFault_of_marked h _

theorem step_keeps_mark {s t : State} {c : FaultCause} (h : s.fault = some c)
    (hr : ∀ rest, s.agenda ≠ .reset :: rest) (hstep : step s = .next t) : t.fault = some c := by
  rcases step_cases hstep with ⟨-, -, rfl⟩ | ⟨-, -, -, e⟩ | ⟨a, _, i, -, hi, e⟩ | ⟨a, _, d, -, -, rfl⟩ |
    ⟨a, _, -, e⟩ | ⟨a, b, _, -, e⟩ | ⟨rest, ha, -⟩
  · exact h
  · exact command_keeps_mark (s := popMove s) h e
  · exact busInstr_keeps_mark (s := popMove s) h hi e
  · exact markFault_of_marked h _
  · rcases hostLoad_cases a (popMove s) with ⟨-, hu⟩ | ⟨-, hu⟩ <;> cases hu.symm.trans e <;> exact h
  · rcases hostStore_cases a b (popMove s) with ⟨-, hu⟩ | ⟨-, -, hu⟩ <;> cases hu.symm.trans e
    · exact markFault_of_marked h _
    · exact h
  · exact absurd ha (hr rest)

/-- Settles O34: every cause keeps the first mark, and the invariant gives a contract fault's mark the command
that it has ended. -/
theorem faultMarkIsSticky : Obligations.FaultMarkIsSticky := by
  refine ⟨fun s t c => step_keeps_mark, fun s rest ha => ⟨_, step_reset ha, rfl⟩,
    fun s e hc hp hd => step_ended hd hp hc, fun s r h hf hd => ?_⟩
  have hne := h.faulted r hf
  obtain ⟨e, hc⟩ := Option.ne_none_iff_exists'.1 hne
  exact ⟨_, step_ended hd (h.ended hne).1 hc⟩

end Sys2Proof.Machine
end

section
/-! PROOFS. The statements of the family 20_memory.md: which bytes an instruction stores to, the bytes of the
command in progress, and the host's own accesses. -/

namespace Sys2Proof.Machine

/-! ## What a path stores -/

theorem sameOutside_of_mem {s t : State} (w : Window) (h : t.mem = s.mem) : SameOutside w s t := fun _ _ => by
  rw [h]

/-- A path whose destination is ready stores inside its window (20_memory.md R70). -/
theorem writeWindow_sameOutside {cls : MethodClass} {f : Fields} {s : State} (h : PathReady cls f s)
    {bs : List Byte} (hl : bs.length = f.olen.toNat) : SameOutside (windowOf f s) s (writeWindow bs s) := by
  obtain ⟨⟨hoff, hlen, -⟩, hw, -⟩ := h
  intro a ha
  rw [← Bool.not_eq_true, windowOf_covers hoff hw hlen] at ha
  exact memRead_memWriteBytes_other bs s.mem _ (by omega)

theorem finishPrim_mem (r : PrimResult) (e : Engine) (f : Fields) (s : State) :
    (finishPrim r e f s).mem = (writeWindow r.out s).mem := by
  rcases finishPrim_cases r e f s with ⟨-, h⟩ | ⟨-, h⟩ <;> simp [h]

/-- A path that goes on by writing `original_len` bytes to its window stores nowhere else, whether it completes
or takes a contract fault. -/
theorem whenDestinationOk_sameOutside {cls : MethodClass} {f : Fields} {s after t : State} {bs : List Byte}
    (hl : bs.length = f.olen.toNat) (ha : after.mem = (writeWindow bs s).mem)
    (h : whenDestinationOk cls f s after = .next t) : SameOutside (windowOf f s) s t := by
  rcases whenDestinationOk_cases cls f s after with ⟨hr, e⟩ | ⟨r, -, e⟩ <;> cases e.symm.trans h
  · intro a hout
    rw [ha]
    exact writeWindow_sameOutside hr hl a hout
  · exact (takeContractFault_spec r (decompressFootprint cls f s) s).memory

theorem execMethodRaw_sameOutside {f : Fields} {s t : State} (h : execMethodRaw f s = .next t) :
    SameOutside (windowOf f s) s t :=
  whenDestinationOk_sameOutside (memReadBytes_length _ _ _) (verify_mem _ _ _) h

theorem execMethodAlgoA_sameOutside {f : Fields} {s t : State} (h : execMethodAlgoA f s = .next t) :
    SameOutside (windowOf f s) s t :=
  whenDestinationOk_sameOutside (primA_out_length _ _) (finishPrim_mem _ _ _ _) h

theorem execMethodAlgoB_sameOutside {f : Fields} {s t : State} (h : execMethodAlgoB f s = .next t) :
    SameOutside (windowOf f s) s t :=
  whenDestinationOk_sameOutside (primB_out_length _ _) (finishPrim_mem _ _ _ _) h

/-- UNSUPPORTED_METHOD stores nothing (41_dispatch.md R146). -/
theorem execMethodOther_mem {m : Byte} (f : Fields) {s t : State} (h : execMethodOther m f s = .next t) :
    t.mem = s.mem := by
  cases h
  rfl

theorem dispatchMethod_sameOutside {h : Header} {s t : State} (e : dispatchMethod h s = .next t) :
    SameOutside (windowOf h.fields s) s t := by
  rw [dispatchMethod_eq_exec] at e
  rcases methodInstr_cases s.cfg h with ⟨-, hi⟩ | ⟨-, hi⟩ | ⟨-, hi⟩ | ⟨-, hi⟩ <;> rw [hi] at e
  · exact execMethodRaw_sameOutside e
  · exact execMethodAlgoA_sameOutside e
  · exact execMethodAlgoB_sameOutside e
  · exact sameOutside_of_mem _ (execMethodOther_mem h.fields e)

/-- DECOMPRESS stores only to the window of the header in memory, on every outcome. -/
theorem execDecompress_sameOutside {s t : State} (h : execDecompress s = .next t) :
    SameOutside (windowOf (parseHeader s).fields s) s t := by
  rcases execDecompress_cases s with ⟨-, e⟩ | ⟨r, -, e⟩
  · exact dispatchMethod_sameOutside (s := latchHeader (parseHeader s) s) (e.symm.trans h)
  · cases e.symm.trans h
    exact (takeContractFault_spec r (headerFootprint s) s).memory

/-- GET_ORIGINAL_LEN stores nothing: its contract fault leaves no window with any value. -/
theorem execGetOriginalLen_mem {s t : State} (h : execGetOriginalLen s = .next t) : t.mem = s.mem := by
  unfold execGetOriginalLen at h
  cases hc : checkHeader s <;> rw [hc] at h <;> cases h
  · rfl
  · simp

theorem execRegRead_mem {off : Byte} {s t : State} (h : execRegRead off s = .next t) : t.mem = s.mem := by
  rcases execRegRead_cases off s with ⟨-, v, n, e⟩ | ⟨-, e⟩ <;> cases e.symm.trans h <;> rfl

theorem WriteEffect.mem {i : Instr} {s t : State} (h : WriteEffect s i t) : t.mem = s.mem := by
  cases h with
  | command d => rfl
  | arguments _ hd => exact hd.mem

/-- A register write stores nothing, but for the window that a BusyWrite leaves with any value. -/
theorem regWrite_sameOutside {i : Instr} (hi : isRegWrite i = true) {s t : State} (h : exec i s = .next t) :
    SameOutside (pendingWindow s) s t := by
  rcases exec_regWrite_cases hi s with ⟨u, e, hu⟩ | e | e <;> cases e.symm.trans h
  · exact sameOutside_of_mem _ hu.mem
  · exact (takeContractFault_spec .busyWrite (pendingFootprint s) s).memory
  · exact sameOutside_of_mem _ rfl

theorem exec_regWriteIgnored_misaligned {off : Byte} (ho : ¬offsetAligned off = true) (d : Word) (s : State) :
    exec (.regWriteIgnored off d) s = .next (refuseAccess .misaligned .write s) := by
  have h : off.toNat % 4 ≠ 0 := by simpa [offsetAligned] using ho
  simp [exec, execRegWriteIgnored, h]

/-- Settles O35, row by row: a path stores to its window once its checks pass, and a contract fault leaves only
that window with any value. -/
theorem onlyTheWindowIsWritten : Obligations.OnlyTheWindowIsWritten := by
  intro i s t h
  cases i with
  | getOriginalLen => exact sameOutside_of_mem _ (execGetOriginalLen_mem h)
  | decompress => exact execDecompress_sameOutside h
  | badCommand op => cases h; exact sameOutside_of_mem _ rfl
  | methodRaw f => exact execMethodRaw_sameOutside h
  | methodAlgoA f => exact execMethodAlgoA_sameOutside h
  | methodAlgoB f => exact execMethodAlgoB_sameOutside h
  | methodOther m f => exact sameOutside_of_mem _ (execMethodOther_mem f h)
  | regRead off => exact sameOutside_of_mem _ (execRegRead_mem h)
  | regWriteIgnored off d =>
    by_cases ho : offsetAligned off = true
    · simpa [storeWindow, ho] using regWrite_sameOutside rfl h
    · cases (exec_regWriteIgnored_misaligned ho d s).symm.trans h
      exact sameOutside_of_mem _ rfl
  | _ => exact regWrite_sameOutside rfl h

/-! ## The read footprint of a completed DECOMPRESS -/

/-- A path that no contract fault ends has passed its checks. -/
theorem whenDestinationOk_notEnded {cls : MethodClass} {f : Fields} {s after t : State}
    (h : whenDestinationOk cls f s after = .next t) (ht : t.commandFault = none) : PathReady cls f s := by
  rcases whenDestinationOk_cases cls f s after with ⟨hr, -⟩ | ⟨r, -, e⟩
  · exact hr
  · cases e.symm.trans h
    exact absurd ht (takeContractFault_commandFault_ne_none _ _ _)

/-- A dispatch that no contract fault ends is unsupported and stores nothing, or has passed the checks of its
class (41_dispatch.md R146, R147). -/
theorem dispatchMethod_notEnded {h : Header} {s t : State} (e : dispatchMethod h s = .next t)
    (ht : t.commandFault = none) : t.mem = s.mem ∨ PathReady (classify s.cfg h.method) h.fields s := by
  rw [dispatchMethod_eq_exec] at e
  rcases methodInstr_cases s.cfg h with ⟨hc, hi⟩ | ⟨hc, hi⟩ | ⟨hc, hi⟩ | ⟨-, hi⟩ <;> rw [hi] at e
  · exact .inr (hc ▸ whenDestinationOk_notEnded e ht)
  · exact .inr (hc ▸ whenDestinationOk_notEnded e ht)
  · exact .inr (hc ▸ whenDestinationOk_notEnded e ht)
  · exact .inl (execMethodOther_mem h.fields e)

/-- The window of a ready path holds no byte of its read footprint (20_memory.md R72). -/
theorem windowOf_not_covers_footprint {cls : MethodClass} {f : Fields} {s : State} (h : PathReady cls f s) {a : Nat}
    (ha : (footprintOf cls f s).covers a = true) : (windowOf f s).covers a = false := by
  obtain ⟨⟨hoff, hlen, -⟩, hw, -, hapart⟩ := h
  rw [← Bool.not_eq_true, windowOf_covers hoff hw hlen]
  have hin : srcAddr s ≤ a ∧ a < srcAddr s + (s.cfg.headerLen + payloadLen cls f) := Region.covers_eq_true.1 ha
  omega

/-- Settles O36: a completed path has passed the overlap check, and stores only to its window. -/
theorem readFootprintIsUnchanged : Obligations.ReadFootprintIsUnchanged := by
  intro s t _ h ht a ha
  rcases execDecompress_cases s with ⟨-, e⟩ | ⟨r, -, e⟩
  · rcases dispatchMethod_notEnded (e.symm.trans h) ht with hm | hr
    · rw [hm, latchHeader_mem]
    · exact execDecompress_sameOutside h a (windowOf_not_covers_footprint hr ha)
  · cases e.symm.trans h
    exact absurd ht (takeContractFault_commandFault_ne_none _ _ _)

/-! ## The host's own accesses -/

theorem popMove_eq {s : State} {e : Event} {rest : List Event} (h : s.agenda = e :: rest) :
    popMove s = { s with agenda := rest } := by
  rw [popMove, h, List.tail_cons]

theorem step_hostLoad {s : State} {a : Addr} {rest : List Event} (h : s.agenda = .hostLoad a :: rest) :
    step s = hostLoad a { s with agenda := rest } := by
  simp [step, fetch, h, popMove_eq h]

theorem step_hostStore {s : State} {a : Addr} {b : Byte} {rest : List Event}
    (h : s.agenda = .hostStore a b :: rest) : step s = hostStore a b { s with agenda := rest } := by
  simp [step, fetch, h, popMove_eq h]

/-- Settles O38: an access meets the bytes of the command in progress or it does not, and IDLE has no such
bytes. -/
theorem hostMemoryAccesses : Obligations.HostMemoryAccesses := by
  refine ⟨fun s a b rest h hin => ?_, fun s a b rest h hwf hout => ?_, fun s a rest h hout => ?_,
    fun s a rest h hin => ?_⟩
  · rw [step_hostStore h]
    refine ⟨_, Config.freeMem s.draws a.toNat, if_pos hin, takeContractFault_spec _ _ _, fun hf => ?_⟩
    simp [hf, markFault]
  · have hstored : step s = .next { s with agenda := rest, mem := memWrite s.mem a.toNat b } := by
      rw [step_hostStore h]
      rcases hout with hp | ⟨hr, hw⟩
      · exact hostStore_idle (s := { s with agenda := rest }) hp a b
      · exact if_neg (not_or.2 ⟨Bool.not_eq_true _ ▸ hr, Bool.not_eq_true _ ▸ hw⟩)
    exact ⟨_, hstored, memRead_memWrite_same hwf _ _, fun a' ha => memRead_memWrite_other ha _ _⟩
  · rw [step_hostLoad h]
    rcases hout with hp | hw
    · exact hostLoad_idle (s := { s with agenda := rest }) hp a
    · exact if_neg (Bool.not_eq_true _ ▸ hw)
  · rw [step_hostLoad h]
    exact ⟨_, _, if_pos hin⟩

/-! ## The bytes of the command in progress -/

/-- The window on unbounded integers (20_memory.md R73), for an address of the address space. -/
theorem windowOf_covers_iff {f : Fields} {s : State} {a : Nat} (ha : a < addrSpace) :
    (windowOf f s).covers a = true ↔ windowBase s ≤ a ∧ (a : Int) < windowBase s + f.olen.toInt := by
  simp only [Window.covers_eq_true, Window.lo, Window.hi, windowOf]
  omega

theorem Region.not_covers_of_empty (base a : Nat) : ¬({ base := base, size := 0 } : Region).covers a = true := by
  simp [Region.covers_eq_true]

theorem pendingFootprint_decompress {s : State} (hc : s.commandFault = none) (hp : s.phase = .pending)
    (hl : s.status.lastOp = 0x02) : pendingFootprint s = headerFootprint s := by
  simp [pendingFootprint_issued hp hc, issuedFootprint, hl, opDecompress]

theorem pendingFootprint_getOriginalLen {s : State} (hc : s.commandFault = none) (hp : s.phase = .pending)
    (hl : s.status.lastOp = 0x01) : pendingFootprint s = lengthFootprint s := by
  simp [pendingFootprint_issued hp hc, issuedFootprint, hl, opDecompress, opGetOriginalLen]

theorem pendingFootprint_badCommand {s : State} (hc : s.commandFault = none) (hp : s.phase = .pending)
    (h1 : s.status.lastOp ≠ 0x01) (h2 : s.status.lastOp ≠ 0x02) : pendingFootprint s = Footprint.empty := by
  rw [pendingFootprint_issued hp hc, issuedFootprint, if_neg (show _ ≠ opDecompress from h2),
    if_neg (show _ ≠ opGetOriginalLen from h1)]

theorem not_covers_of_footprint_empty {s : State} (h : pendingFootprint s = Footprint.empty) (a : Nat) :
    ¬(pendingReads s).covers a = true ∧ ¬(pendingWindow s).covers a = true := by
  rw [pendingReads, pendingWindow, h]
  exact ⟨Region.not_covers_of_empty 0 a, by simp [Footprint.empty]⟩

/-- Settles O45: the footprint of each OPCODE, read as bounds on addresses. -/
theorem pendingCommandFootprints : Obligations.PendingCommandFootprints := by
  intro s a ha
  refine ⟨fun hc hp hl => ?_, fun hc hp hl => ?_,
    fun hc hp h1 h2 => not_covers_of_footprint_empty (pendingFootprint_badCommand hc hp h1 h2) a,
    fun hp => not_covers_of_footprint_empty (pendingFootprint_idle hp) a⟩
  · rw [pendingReads, pendingWindow, pendingFootprint_decompress hc hp hl]
    refine ⟨?_, windowOf_covers_iff ha⟩
    rw [Region.covers_eq_true, Nat.add_assoc]
    rfl
  · rw [pendingReads, pendingWindow, pendingFootprint_getOriginalLen hc hp hl]
    refine ⟨?_, by simp⟩
    rw [Region.covers_eq_true, lengthFootprint]
    simp only
    omega

/-! ## The bytes of the command in progress stay -/

/-- The header is a function of SRC, the build and the header bytes (40_header_parser.md R122). -/
theorem parseHeader_congr {s t : State} (hs : srcAddr t = srcAddr s) (hb : t.cfg = s.cfg)
    (hm : ∀ i < s.cfg.headerLen, memRead t.mem (srcAddr s + i) = memRead s.mem (srcAddr s + i)) :
    parseHeader t = parseHeader s := by
  unfold Config.headerLen at hm
  have field (k : Nat) (hk : k + 3 < s.cfg.magicLen + 13) : readField t k = readField s k := by
    simp only [readField, hs, Nat.add_assoc]
    rw [hm k (by omega), hm (k + 1) (by omega), hm (k + 2) (by omega), hm (k + 3) (by omega)]
  have magic : memReadBytes t.mem (srcAddr s) s.cfg.magicLen = memReadBytes s.mem (srcAddr s) s.cfg.magicLen :=
    memReadBytes_congr fun i hi => hm i (by omega)
  rw [parseHeader, parseHeader, hs, hb, magic, hm _ (by omega), field _ (by omega), field _ (by omega),
    field _ (by omega)]

theorem memWrite_headerFootprint {s : State} {a : Nat} (h : (headerFootprint s).reads.covers a = false) (b : Byte) :
    headerFootprint { s with mem := memWrite s.mem a b } = headerFootprint s := by
  have hout : a < srcAddr s ∨ srcAddr s + s.cfg.headerLen ≤ a :=
    (Region.covers_eq_false.1 h).imp_right (Nat.add_le_add_left (Nat.le_add_right _ _) _).trans
  have hh : parseHeader { s with mem := memWrite s.mem a b } = parseHeader s :=
    parseHeader_congr rfl rfl fun i hi => memRead_memWrite_other (by omega) _ _
  rw [headerFootprint, hh]
  rfl

/-- Memory gives a command its bytes through the header only, which a DECOMPRESS reads. -/
theorem memWrite_issuedFootprint {s : State} {a : Nat} (h : (issuedFootprint s).reads.covers a = false) (b : Byte) :
    issuedFootprint { s with mem := memWrite s.mem a b } = issuedFootprint s := by
  simp only [issuedFootprint] at h ⊢
  split_ifs at h ⊢
  · exact memWrite_headerFootprint h b
  · rfl
  · rfl

theorem pendingFootprint_congr_of_issued {s t : State} (hp : t.phase = s.phase)
    (hc : t.commandFault = s.commandFault)
    (hi : s.phase = .pending → s.commandFault = none → issuedFootprint t = issuedFootprint s) :
    pendingFootprint t = pendingFootprint s := by
  cases hs : s.phase with
  | idle => rw [pendingFootprint_idle hs, pendingFootprint_idle (hp.trans hs)]
  | pending =>
    cases he : s.commandFault with
    | none => rw [pendingFootprint_issued hs he, pendingFootprint_issued (hp.trans hs) (hc.trans he), hi hs he]
    | some e => rw [pendingFootprint_kept hs he, pendingFootprint_kept (hp.trans hs) (hc.trans he)]

/-- A store that R76 allows leaves the bytes of the command in progress (20_memory.md R76). -/
theorem memWrite_pendingFootprint {s : State} {a : Nat} (h : (pendingReads s).covers a = false) (b : Byte) :
    pendingFootprint { s with mem := memWrite s.mem a b } = pendingFootprint s :=
  pendingFootprint_congr_of_issued rfl rfl fun hp hc =>
    memWrite_issuedFootprint (by rwa [pendingReads, pendingFootprint_issued hp hc] at h) b

/-- A contract fault keeps the bytes of the command it ends, or those of the command already ended. -/
theorem takeContractFault_pendingFootprint {s u : State} (hp : s.phase = .pending)
    (hc : u.commandFault = s.commandFault) (r : ContractFault) :
    pendingFootprint (takeContractFault r (pendingFootprint s) u) = pendingFootprint s := by
  have hkept : (takeContractFault r (pendingFootprint s) u).commandFault =
      some (s.commandFault.getD ⟨r, pendingFootprint s⟩) := by
    rw [takeContractFault_commandFault, endCommand_eq, hc]
  rw [pendingFootprint_kept rfl hkept]
  cases he : s.commandFault with
  | none => rfl
  | some e => exact (pendingFootprint_kept hp he).symm

/-- The device step of a command that stays PENDING has ended in a contract fault. -/
theorem command_pendingFootprint {s t : State} (hp : s.phase = .pending) (hc : s.commandFault = none)
    (e : exec (decodeCmd (s.status.lastOp.setWidth 32)) s = .next t) (ht : t.phase = .pending) :
    pendingFootprint t = pendingFootprint s := by
  rcases command_ends s with ⟨u, hu, hcomp⟩ | ⟨r, u, hlatch, hu⟩ <;> cases hu.symm.trans e
  · cases hcomp.phase.symm.trans ht
  · rw [← pendingFootprint_issued hp hc]
    exact takeContractFault_pendingFootprint hp (by rcases hlatch with rfl | rfl <;> rfl) r

/-- While PENDING a bus instruction reads a register, takes BusyWrite or is refused. -/
theorem busInstr_pendingFootprint {s t : State} (hp : s.phase = .pending) {a : BusAccess} {i : Instr}
    (hi : decodeBus a = .ok i) (e : exec i s = .next t) : pendingFootprint t = pendingFootprint s := by
  rcases decodeBus_read_or_write hi with ⟨off, rfl⟩ | hw
  · rcases execRegRead_cases off s with ⟨-, v, n, hu⟩ | ⟨-, hu⟩ <;> cases hu.symm.trans e
    · rfl
    · exact refuseAccess_pendingFootprint _ _ _
  · rcases exec_regWrite hw s with ⟨u, hu, -⟩ | hu
    · cases (hu.trans (whenIdle_pending hp u)).symm.trans e
      exact takeContractFault_pendingFootprint hp rfl _
    · cases hu.symm.trans e
      exact refuseAccess_pendingFootprint _ _ _

theorem hostStore_pendingFootprint {s t : State} (hp : s.phase = .pending) {a : Addr} {b : Byte}
    (e : hostStore a b s = .next t) : pendingFootprint t = pendingFootprint s := by
  rcases hostStore_cases a b s with ⟨-, hu⟩ | ⟨hr, -, hu⟩ <;> cases hu.symm.trans e
  · exact takeContractFault_pendingFootprint hp (by rfl) _
  · exact memWrite_pendingFootprint hr b

theorem step_pendingFootprint {s t : State} (hstep : step s = .next t) (hp : s.phase = .pending)
    (ht : t.phase = .pending) : pendingFootprint t = pendingFootprint s := by
  have hpop : pendingFootprint (popMove s) = pendingFootprint s := rfl
  rw [← hpop]
  rcases step_cases hstep with ⟨-, -, rfl⟩ | ⟨-, -, hc, e⟩ | ⟨_, _, i, -, hi, e⟩ | ⟨_, _, d, -, -, rfl⟩ |
    ⟨a, _, -, e⟩ | ⟨a, b, _, -, e⟩ | ⟨_, -, rfl⟩
  · rfl
  · exact command_pendingFootprint (s := popMove s) hp hc e ht
  · exact busInstr_pendingFootprint (s := popMove s) hp hi e
  · exact refuseAccess_pendingFootprint _ _ _
  · rcases hostLoad_cases a (popMove s) with ⟨-, hu⟩ | ⟨-, hu⟩ <;> cases hu.symm.trans e <;> rfl
  · exact hostStore_pendingFootprint (s := popMove s) hp e
  · cases ht

/-- Settles O46: the whole footprint of the command in progress stays, move by move. -/
theorem footprintStaysWhilePending : Obligations.FootprintStaysWhilePending := by
  intro s t hstep hp ht
  have h := step_pendingFootprint hstep hp ht
  exact ⟨congrArg Footprint.reads h, congrArg Footprint.writes h⟩

end Sys2Proof.Machine
end

section
/-! PROOFS. The statements of the family 30_encoding.md: the decoder and the encoder undo each other on block
headers, command words and bus accesses. -/

namespace Sys2Proof

/-! ## The fields of a byte string -/

/-- A byte after the bytes `pre`, by its index from their end. -/
theorem byteAt_append_length_add (pre bs : List Byte) (i : Nat) :
    byteAt (pre ++ bs) (pre.length + i) = byteAt bs i := by
  rw [byteAt, byteAt, List.getD_append_right _ _ _ _ (Nat.le_add_right ..), Nat.add_sub_cancel_left]

/-- The byte that stands after the bytes `pre` is read at their length. -/
theorem byteAt_append_cons {pre : List Byte} {k : Nat} (hk : pre.length = k) (b : Byte) (post : List Byte) :
    byteAt (pre ++ b :: post) k = b :=
  hk ▸ byteAt_append_length_add pre (b :: post) 0

/-- The bytes of a word that stand after the bytes `pre` are read back as the word. -/
theorem wordAt_append_wordBytes {pre : List Byte} {k : Nat} (hk : pre.length = k) (w : Word) (post : List Byte) :
    wordAt (pre ++ (wordBytes w ++ post)) k = w := by
  have hfirst : byteAt (pre ++ (wordBytes w ++ post)) k = wordByte w 0 := byteAt_append_cons hk _ _
  subst hk
  rw [wordAt, hfirst, byteAt_append_length_add, byteAt_append_length_add, byteAt_append_length_add]
  exact le32_wordBytes w

theorem drop_eq_byteAt_cons {bs : List Byte} {k : Nat} (hk : k < bs.length) :
    bs.drop k = byteAt bs k :: bs.drop (k + 1) := by
  rw [byteAt, List.getD_eq_getElem _ _ hk, List.drop_eq_getElem_cons hk]

/-- A string with four bytes left at `k` goes on with the bytes of the word read there. -/
theorem drop_eq_wordBytes_append {bs : List Byte} {k : Nat} (hk : k + 4 ≤ bs.length) :
    bs.drop k = wordBytes (wordAt bs k) ++ bs.drop (k + 4) := by
  obtain ⟨h0, h1, h2, h3⟩ :=
    wordByte_le32 (byteAt bs k) (byteAt bs (k + 1)) (byteAt bs (k + 2)) (byteAt bs (k + 3))
  rw [wordBytes, wordAt, h0, h1, h2, h3, drop_eq_byteAt_cons (by omega), drop_eq_byteAt_cons (by omega),
    drop_eq_byteAt_cons (by omega), drop_eq_byteAt_cons (by omega)]
  rfl

/-! ## Block headers -/

/-- A header is read back from its bytes, whatever payload follows (30_encoding.md R90). -/
theorem headerOf_encodeHeader {c : Config} {h : Header} (hm : h.fields.magic.length = c.magicLen)
    (payload : List Byte) : headerOf c (encodeHeader h.method h.fields ++ payload) = h := by
  obtain ⟨m, magic, clen, olen, csum⟩ := h
  have hclen := wordAt_append_wordBytes (pre := magic ++ [m]) (k := c.magicLen + 1)
    (by simpa using hm) clen (wordBytes olen ++ (wordBytes csum ++ payload))
  have holen := wordAt_append_wordBytes (pre := magic ++ m :: wordBytes clen) (k := c.magicLen + 5)
    (by simpa [wordBytes_length] using hm) olen (wordBytes csum ++ payload)
  have hcsum := wordAt_append_wordBytes (pre := magic ++ m :: (wordBytes clen ++ wordBytes olen))
    (k := c.magicLen + 9) (by simpa [wordBytes_length] using hm) csum payload
  simp only [List.append_assoc, List.cons_append, List.nil_append] at hclen holen hcsum
  simp [encodeHeader, headerOf, byteAt_append_cons hm, hclen, holen, hcsum, List.take_left' hm]

/-- The fields of HEADER_LENGTH bytes are all of them (30_encoding.md R90). -/
theorem encodeHeader_headerOf {c : Config} {bs : List Byte} (hl : bs.length = c.headerLen) :
    encodeHeader (headerOf c bs).method (headerOf c bs).fields = bs := by
  have hlen : bs.length = c.magicLen + 13 := hl
  calc encodeHeader (headerOf c bs).method (headerOf c bs).fields
      = bs.take c.magicLen ++ byteAt bs c.magicLen :: (wordBytes (wordAt bs (c.magicLen + 1)) ++
          (wordBytes (wordAt bs (c.magicLen + 5)) ++ (wordBytes (wordAt bs (c.magicLen + 9)) ++
            bs.drop (c.magicLen + 13)))) := by
        simp [encodeHeader, headerOf, hlen]
    _ = bs.take c.magicLen ++ bs.drop c.magicLen := by
        rw [drop_eq_byteAt_cons (k := c.magicLen) (by omega), drop_eq_wordBytes_append (k := c.magicLen + 1) (by omega),
          drop_eq_wordBytes_append (k := c.magicLen + 1 + 4) (by omega),
          drop_eq_wordBytes_append (k := c.magicLen + 1 + 4 + 4) (by omega)]
    _ = bs := List.take_append_drop ..

/-- A string that holds a header decodes to the row of its method byte. -/
theorem decode_header {c : Config} {bs : List Byte} (hl : c.headerLen ≤ bs.length) :
    decode c (.header bs) = .ok (methodInstr c (headerOf c bs)) := by
  simp [decode, decodeHeader, Nat.not_lt.2 hl, Except.map]

/-- An encoded header decodes to the row of its method byte, whatever payload follows (30_encoding.md R98). -/
theorem decode_encodeHeader {c : Config} {h : Header} (hm : h.fields.magic.length = c.magicLen)
    (payload : List Byte) :
    decode c (.header (encodeHeader h.method h.fields ++ payload)) = .ok (methodInstr c h) := by
  have hl : c.headerLen ≤ (encodeHeader h.method h.fields ++ payload).length := by
    rw [List.length_append, encodeHeader_length, hm]
    exact Nat.le_add_right ..
  rw [decode_header hl, headerOf_encodeHeader hm]

/-- The row of a header is encoded as that header: each class but OTHER has one method byte. -/
theorem encode_methodInstr (c : Config) (h : Header) :
    encode c (methodInstr c h) = .header (encodeHeader h.method h.fields) := by
  obtain ⟨hraw, ha, hb, -⟩ := classify_eq c h.method
  rcases methodInstr_cases c h with ⟨hc, hi⟩ | ⟨hc, hi⟩ | ⟨hc, hi⟩ | ⟨-, hi⟩ <;> rw [hi, encode]
  · rw [hraw.1 hc]
  · rw [(ha.1 hc).1]
  · rw [(hb.1 hc).1]

/-- The build's code RAW selects its path on every build; a codec's code only where the build accepts the codec. -/
theorem methodInstr_codeRaw (c : Config) (f : Fields) : methodInstr c ⟨c.codeRaw, f⟩ = .methodRaw f := by
  obtain ⟨hraw, -, -, -⟩ := classify_eq c c.codeRaw
  rw [methodInstr, hraw.2 rfl]

theorem methodInstr_codeA {c : Config} (h : c.accepts .a = true) (f : Fields) :
    methodInstr c ⟨c.codeA, f⟩ = .methodAlgoA f := by
  obtain ⟨-, ha, -, -⟩ := classify_eq c c.codeA
  rw [methodInstr, ha.2 ⟨rfl, h⟩]

theorem methodInstr_codeB {c : Config} (h : c.accepts .b = true) (f : Fields) :
    methodInstr c ⟨c.codeB, f⟩ = .methodAlgoB f := by
  obtain ⟨-, -, hb, -⟩ := classify_eq c c.codeB
  rw [methodInstr, hb.2 ⟨rfl, h⟩]

theorem methodInstr_rejects {c : Config} {m : Byte} (h : c.rejects m = true) (f : Fields) :
    methodInstr c ⟨m, f⟩ = .methodOther m f := by
  obtain ⟨-, -, -, ho⟩ := classify_eq c m
  rw [methodInstr, ho.2 h]

/-- The row of a header is given back by its encoding (30_encoding.md R98). -/
theorem decode_encode_methodInstr {c : Config} {h : Header} {i : Instr} (hi : methodInstr c h = i)
    (hm : h.fields.wf c = true) : decode c (encode c i) = .ok i := by
  subst hi
  rw [encode_methodInstr, ← List.append_nil (encodeHeader _ _)]
  exact decode_encodeHeader (beq_iff_eq.1 hm) []

/-! ## Command words -/

/-- An OPCODE that names no other command, zero-extended, is a BAD_COMMAND (30_encoding.md R100). -/
theorem decodeCmd_badCommand {op : Byte} (h1 : op ≠ 0x01) (h2 : op ≠ 0x02) :
    decodeCmd (op.setWidth 32) = .badCommand op := by
  have hop : (op.setWidth 32 : Word).setWidth 8 = op := by simp
  rcases decodeCmd_cases (op.setWidth 32) with ⟨h, -⟩ | ⟨h, -⟩ | ⟨-, -, h⟩
  · exact absurd (hop.symm.trans h) h1
  · exact absurd (hop.symm.trans h) h2
  · rw [h, hop]

/-! ## Bus accesses -/

/-- A read of an aligned offset of the window (30_encoding.md R101). -/
theorem decodeBus_busRead {off : Byte} (h : offsetAligned off = true) :
    decodeBus (busRead off.toNat) = .ok (.regRead off) := by
  have haligned : off.toNat % 4 = 0 := beq_iff_eq.1 h
  simp [decodeBus, busRead, haligned, off.isLt]

/-- A write to an aligned offset of the window (30_encoding.md R101). -/
theorem decodeBus_busWrite {off : Byte} (h : offsetAligned off = true) (data : Word) :
    decodeBus (busWrite off.toNat data) = .ok (writeInstr off data) := by
  have haligned : off.toNat % 4 = 0 := beq_iff_eq.1 h
  simp [decodeBus, busWrite, haligned, off.isLt]

theorem writeInstr_ignored {off : Byte} (h : writeOffsets.contains off = false) (data : Word) :
    writeInstr off data = .regWriteIgnored off data := by
  simp only [writeOffsets, List.contains_eq_mem, decide_eq_false_iff_not, List.mem_cons, not_or] at h
  obtain ⟨h0, h1, h2, h3, h4, h5, -⟩ := h
  rw [writeInstr, if_neg h0, if_neg h1, if_neg h2, if_neg h3, if_neg h4, if_neg h5]

/-! ## The obligations -/

/-- Settles O1, row by row: the encoded form of each row selects that row, and its operands are read back. -/
theorem decodeInvertsEncode : Obligations.DecodeInvertsEncode := by
  intro c i hwf
  cases i with
  | getOriginalLen => rfl
  | decompress => rfl
  | badCommand op =>
    obtain ⟨h1, h2⟩ : op ≠ 0x01 ∧ op ≠ 0x02 := by simpa [Instr.wf] using hwf
    exact congrArg Except.ok (decodeCmd_badCommand h1 h2)
  | methodRaw f => exact decode_encode_methodInstr (methodInstr_codeRaw c f) hwf
  | methodAlgoA f =>
    obtain ⟨hf, ha⟩ := Bool.and_eq_true_iff.1 hwf
    exact decode_encode_methodInstr (methodInstr_codeA ha f) hf
  | methodAlgoB f =>
    obtain ⟨hf, hb⟩ := Bool.and_eq_true_iff.1 hwf
    exact decode_encode_methodInstr (methodInstr_codeB hb f) hf
  | methodOther m f =>
    obtain ⟨hf, ho⟩ := Bool.and_eq_true_iff.1 hwf
    exact decode_encode_methodInstr (methodInstr_rejects ho f) hf
  | regRead off => exact decodeBus_busRead hwf
  | regWriteCmd data => exact decodeBus_busWrite (off := 0x00) rfl data
  | regWriteSrcAddrLo data => exact decodeBus_busWrite (off := 0x08) rfl data
  | regWriteSrcAddrHi data => exact decodeBus_busWrite (off := 0x0C) rfl data
  | regWriteDstAddrLo data => exact decodeBus_busWrite (off := 0x10) rfl data
  | regWriteDstAddrHi data => exact decodeBus_busWrite (off := 0x14) rfl data
  | regWriteDstOff data => exact decodeBus_busWrite (off := 0x18) rfl data
  | regWriteIgnored off data =>
    obtain ⟨haligned, hother⟩ := Bool.and_eq_true_iff.1 hwf
    have hrow := writeInstr_ignored (by simpa using hother) data
    exact (decodeBus_busWrite haligned data).trans (congrArg Except.ok hrow)

/-- Settles O2: the bytes decode to the row of the header they hold, which is encoded as those bytes. -/
theorem encodeInvertsHeaderDecode : Obligations.EncodeInvertsHeaderDecode := by
  intro c bs i hl hi
  obtain rfl : methodInstr c (headerOf c bs) = i := Except.ok.inj ((decode_header hl.ge).symm.trans hi)
  rw [encode_methodInstr, encodeHeader_headerOf hl]

/-- Settles O3: the block is an encoded header before its payload; each other word selects its row. -/
theorem specWordsDecode : Obligations.SpecWordsDecode :=
  ⟨decode_encodeHeader (c := Config.standard)
      (h := ⟨0x00, [0x5A, 0x53, 0x54, 0x44, 0x42, 0x6C, 0x6F, 0x63, 0x6B], 15, 15, 0xE451760F⟩) rfl
      [0x48, 0x65, 0x6C, 0x6C, 0x6F, 0x20, 0x43, 0x65, 0x6C, 0x65, 0x62, 0x6F, 0x72, 0x6E, 0x21],
    rfl, rfl, congrArg Except.ok (decodeCmd_badCommand (op := 0x07) (by decide) (by decide)),
    decodeBus_busWrite (off := 0x18) rfl 0x4, decodeBus_busRead (off := 0x3C) rfl⟩

end Sys2Proof
end

section
/-! PROOFS. The statements of the family 40_header_parser.md: the fields of the header in memory, GET_ORIGINAL_LEN,
the faults of the header check, the latch of DECOMPRESS, and the magic that nothing reads. -/

namespace Sys2Proof.Machine

/-! ## The fields of the header in memory -/

/-- Four bytes, lowest address first, as a number (20_memory.md R65). -/
theorem le32_toNat (b0 b1 b2 b3 : Byte) :
    (le32 b0 b1 b2 b3).toNat = b0.toNat + 256 * b1.toNat + 65536 * b2.toNat + 16777216 * b3.toNat := by
  have h0 := b0.isLt
  have h1 := b1.isLt
  have h2 := b2.isLt
  have h3 := b3.isLt
  simp only [← byteWord_toNat] at h0 h1 h2 h3
  have h01 : (b0.setWidth 32 ||| b1.setWidth 32 <<< 8 : Word).toNat = _ :=
    toNat_or_shiftLeft (by omega) (by omega)
  have h012 : (b0.setWidth 32 ||| b1.setWidth 32 <<< 8 ||| b2.setWidth 32 <<< 16 : Word).toNat = _ :=
    toNat_or_shiftLeft (by omega) (by omega)
  rw [le32, toNat_or_shiftLeft (by omega) (by omega), h012, h01]
  simp only [byteWord_toNat]
  omega

/-- Settles O4: a field is `le32` of its four bytes. -/
theorem readFieldIsLittleEndian : Obligations.ReadFieldIsLittleEndian := fun _ _ => le32_toNat _ _ _ _

theorem wordAt_memReadBytes {s : State} {k n : Nat} (h : k + 3 < n) :
    wordAt (memReadBytes s.mem (srcAddr s) n) k = readField s k := by
  simp only [wordAt, byteAt]
  rw [byteAt_memReadBytes (by omega), byteAt_memReadBytes (by omega), byteAt_memReadBytes (by omega),
    byteAt_memReadBytes (by omega)]
  rfl

/-- The parser and the decoder read one header from the bytes at SRC, whatever payload follows
(40_header_parser.md R122, 30_encoding.md R90). -/
theorem headerOf_memReadBytes (s : State) (n : Nat) :
    headerOf s.cfg (memReadBytes s.mem (srcAddr s) (s.cfg.headerLen + n)) = parseHeader s := by
  have hmagic : (memReadBytes s.mem (srcAddr s) (s.cfg.headerLen + n)).take s.cfg.magicLen =
      memReadBytes s.mem (srcAddr s) s.cfg.magicLen := by
    rw [Config.headerLen, Nat.add_assoc, memReadBytes_add, List.take_left' (memReadBytes_length _ _ _)]
  have hlen : s.cfg.headerLen = s.cfg.magicLen + 13 := rfl
  rw [headerOf, hmagic, byteAt, byteAt_memReadBytes (by omega), wordAt_memReadBytes (by omega),
    wordAt_memReadBytes (by omega), wordAt_memReadBytes (by omega), parseHeader]

/-- Settles O5: the decoder gives back an encoded header, and the parser reads what the decoder reads. -/
theorem headerInMemoryIsParsed : Obligations.HeaderInMemoryIsParsed := by
  intro s h hm hmem
  calc parseHeader s = headerOf s.cfg (memReadBytes s.mem (srcAddr s) s.cfg.headerLen) :=
        (headerOf_memReadBytes s 0).symm
    _ = headerOf s.cfg (encodeHeader h.method h.fields ++ []) := by rw [hmem, List.append_nil]
    _ = h := headerOf_encodeHeader hm []

/-! ## The header check -/

/-- A header that is not ready faults, as SrcOutOfBounds or AddressRange (40_header_parser.md R121). -/
theorem checkHeader_of_not_ready {s : State} (h : ¬HeaderReady s) :
    ∃ r, (r = .srcOutOfBounds ∨ r = .addressRange) ∧ checkHeader s = some r := by
  obtain ⟨r, hr⟩ := Option.ne_none_iff_exists'.1 (mt checkHeader_eq_none.1 h)
  exact ⟨r, (checkBytes_reasons hr).symm, hr⟩

/-- The first header byte that fails its check gives the reason (20_memory.md R64). -/
theorem checkHeader_first {s : State} {k : Nat} {r : ContractFault} (hk : k < s.cfg.headerLen)
    (hbefore : ∀ i < k, ByteReady s.srcAdmit (srcAddr s) i)
    (hat : byteFault s.srcAdmit .srcOutOfBounds (srcAddr s + k) = some r) : checkHeader s = some r :=
  checkBytes_first hk hbefore hat

theorem exec_getOriginalLen_ready {s : State} (h : HeaderReady s) :
    exec .getOriginalLen s = .next (complete .none (readField s (s.cfg.magicLen + 5))
      { s with hdrOlen := readField s (s.cfg.magicLen + 5) }) := by
  simp only [exec, execGetOriginalLen, checkHeader_eq_none.2 h]

theorem exec_getOriginalLen_fault {s : State} {r : ContractFault} (h : checkHeader s = some r) :
    ∃ t, exec .getOriginalLen s = .next t ∧ TakesContractFault r Window.empty s t := by
  refine ⟨_, ?_, takeContractFault_spec r (lengthFootprint s) s⟩
  simp only [exec, execGetOriginalLen, h]

theorem exec_decompress_ready {s : State} (h : HeaderReady s) :
    exec .decompress s = dispatchMethod (parseHeader s) (latchHeader (parseHeader s) s) := by
  simp only [exec, execDecompress, checkHeader_eq_none.2 h]

theorem exec_decompress_fault {s : State} {r : ContractFault} (h : checkHeader s = some r) :
    ∃ t, exec .decompress s = .next t ∧ TakesContractFault r (windowOf (parseHeader s).fields s) s t := by
  refine ⟨_, ?_, takeContractFault_spec r (headerFootprint s) s⟩
  simp only [exec, execDecompress, h]

/-- Settles O25: the header check decides between the completion and the contract fault. -/
theorem getOriginalLenCompletes : Obligations.GetOriginalLenCompletes := by
  refine ⟨fun s h => exec_getOriginalLen_ready h, fun s h => ?_⟩
  obtain ⟨r, hr, hc⟩ := checkHeader_of_not_ready h
  obtain ⟨t, e, ht⟩ := exec_getOriginalLen_fault hc
  exact ⟨t, r, hr, e, ht⟩

/-- Settles O32: both commands run the one header check first, and its first failing byte gives the reason. -/
theorem headerByteFaults : Obligations.HeaderByteFaults := by
  refine ⟨fun s h => ⟨⟨_, exec_getOriginalLen_ready h, rfl⟩, ?_⟩, fun s k hk hbefore => ⟨fun hrange => ?_,
    fun hrange hadmit => ?_⟩⟩
  · rw [exec_decompress_ready h, dispatchMethod_eq_exec, latchHeader_cfg]
  · have hc := checkHeader_first hk hbefore (if_pos hrange)
    exact ⟨exec_getOriginalLen_fault hc, exec_decompress_fault hc⟩
  · have hc := checkHeader_first hk hbefore ((if_neg (Nat.not_le.2 hrange)).trans (if_pos hadmit))
    exact ⟨exec_getOriginalLen_fault hc, exec_decompress_fault hc⟩

/-- A DECOMPRESS that no contract fault ends has passed the header check, and dispatches on the latched
header (41_dispatch.md R145). -/
theorem exec_decompress_notEnded {s t : State} (h : exec .decompress s = .next t) (ht : t.commandFault = none) :
    HeaderReady s ∧ dispatchMethod (parseHeader s) (latchHeader (parseHeader s) s) = .next t := by
  rcases execDecompress_cases s with ⟨hr, e⟩ | ⟨r, -, e⟩
  · exact ⟨hr, e.symm.trans h⟩
  · cases e.symm.trans h
    exact absurd ht (takeContractFault_commandFault_ne_none _ _ _)

/-! ## The latch -/

/-- A path that no contract fault ends reaches its own end. -/
theorem whenDestinationOk_eq_after {cls : MethodClass} {f : Fields} {s after t : State}
    (h : whenDestinationOk cls f s after = .next t) (ht : t.commandFault = none) : t = after :=
  Host.Outcome.next.inj (h.symm.trans (whenDestinationOk_ready (whenDestinationOk_notEnded h ht) after))

theorem verify_writeWindow_headerRegs (e : Engine) (f : Fields) (bs : List Byte) (s : State) :
    SameHeaderRegs s (verify e f (writeWindow bs s)) := by
  obtain ⟨-, hregs, -⟩ := verify_frame e f (writeWindow bs s)
  exact { __ := hregs }

theorem finishPrim_headerRegs (r : PrimResult) (e : Engine) (f : Fields) (s : State) :
    SameHeaderRegs s (finishPrim r e f s) := by
  rcases finishPrim_cases r e f s with ⟨-, h⟩ | ⟨-, h⟩ <;> rw [h]
  · exact verify_writeWindow_headerRegs _ _ _ _
  · constructor <;> rfl

/-- No path that completes writes a header register (40_header_parser.md R123). -/
theorem dispatchMethod_headerRegs {h : Header} {s t : State} (e : dispatchMethod h s = .next t)
    (ht : t.commandFault = none) : SameHeaderRegs s t := by
  rw [dispatchMethod_eq_exec] at e
  rcases methodInstr_cases s.cfg h with ⟨-, hi⟩ | ⟨-, hi⟩ | ⟨-, hi⟩ | ⟨-, hi⟩ <;> rw [hi] at e
  · obtain rfl := whenDestinationOk_eq_after e ht
    exact verify_writeWindow_headerRegs _ _ _ _
  · obtain rfl := whenDestinationOk_eq_after e ht
    exact finishPrim_headerRegs _ _ _ _
  · obtain rfl := whenDestinationOk_eq_after e ht
    exact finishPrim_headerRegs _ _ _ _
  · cases e
    constructor <;> rfl

theorem magicByte_congr {s t : State} (h : SameHeaderRegs s t) (i : Nat) : magicByte t i = magicByte s i := by
  simp only [magicByte, h.hdrMagic0, h.hdrMagic1, h.hdrMagic2, h.hdrMagic3]

/-- The magic parsed is the M bytes at SRC, and 0 past them. -/
theorem byteAt_parseHeader_magic (s : State) (i : Nat) :
    byteAt (parseHeader s).fields.magic i = if i < s.cfg.magicLen then memRead s.mem (srcAddr s + i) else 0 := by
  split_ifs with hi
  · exact byteAt_memReadBytes hi _ _
  · exact List.getD_eq_default _ _ ((memReadBytes_length _ _ _).trans_le (Nat.not_lt.1 hi))

/-- Settles O31: the header is latched before the dispatch, and no path that completes writes its registers. -/
theorem headerIsLatched : Obligations.HeaderIsLatched := by
  intro s t _ h ht
  obtain ⟨-, e⟩ := exec_decompress_notEnded h ht
  have hregs := dispatchMethod_headerRegs e ht
  refine ⟨{ __ := hregs }, fun i hi => ?_⟩
  rw [magicByte_congr hregs, magicByte_latchHeader _ _ hi, byteAt_parseHeader_magic]

/-! ## The magic is not validated -/

/-- A header with another magic. -/
def withMagic (m : List Byte) (h : Header) : Header := { h with fields := { h.fields with magic := m } }

/-- No path looks at the magic (40_header_parser.md R124). -/
theorem dispatchMethod_withMagic (m : List Byte) (h : Header) (s : State) :
    dispatchMethod (withMagic m h) s = dispatchMethod h s := rfl

/-- A write below a field leaves it. -/
theorem readField_memWrite_below {s : State} {a k : Nat} (h : a < srcAddr s + k) (b : Byte) :
    readField { s with mem := memWrite s.mem a b } k = readField s k := by
  have hs : srcAddr { s with mem := memWrite s.mem a b } = srcAddr s := rfl
  rw [readField, hs, memRead_memWrite_other (by omega), memRead_memWrite_other (by omega),
    memRead_memWrite_other (by omega), memRead_memWrite_other (by omega), readField]

/-- Changing a magic byte in memory changes the magic of the parsed header, and no other field. -/
theorem parseHeader_memWrite_magic {s : State} {i : Nat} (hi : i < s.cfg.magicLen) (b : Byte) :
    ∃ m, parseHeader { s with mem := memWrite s.mem (srcAddr s + i) b } = withMagic m (parseHeader s) := by
  have hmethod : memRead (memWrite s.mem (srcAddr s + i) b) (srcAddr s + s.cfg.magicLen) =
      memRead s.mem (srcAddr s + s.cfg.magicLen) := memRead_memWrite_other (by omega) _ _
  have hfield (k : Nat) : readField { s with mem := memWrite s.mem (srcAddr s + i) b } (s.cfg.magicLen + k) =
      readField s (s.cfg.magicLen + k) := readField_memWrite_below (by omega) b
  refine ⟨memReadBytes (memWrite s.mem (srcAddr s + i) b) (srcAddr s) s.cfg.magicLen, ?_⟩
  rw [parseHeader, hfield 1, hfield 5, hfield 9]
  exact congrArg (Header.mk · _) hmethod

/-- Two states that differ in the byte at `a` and the HDR_MAGIC registers at most, each with canonical memory. -/
structure AgreeOffMagic (a : Nat) (s s' : State) : Prop where
  registers : ∃ m g0 g1 g2 g3, s' =
    { s with mem := m, hdrMagic0 := g0, hdrMagic1 := g1, hdrMagic2 := g2, hdrMagic3 := g3 }
  memory : ∀ b, b ≠ a → memRead s'.mem b = memRead s.mem b
  wf : s.mem.wf
  wf' : s'.mem.wf

/-- A run written to two memories reads alike wherever the memories did. -/
theorem memRead_memWriteBytes_congr {m m' : Memory} (hm : m.wf) (hm' : m'.wf) {b : Nat}
    (h : memRead m' b = memRead m b) (a : Nat) (bs : List Byte) :
    memRead (memWriteBytes m' a bs) b = memRead (memWriteBytes m a bs) b := by
  induction bs generalizing m m' a with
  | nil => exact h
  | cons v bs ih =>
    refine ih (memWrite_wf hm a v) (memWrite_wf hm' a v) ?_ (a + 1)
    by_cases hb : b = a
    · rw [hb, memRead_memWrite_same hm, memRead_memWrite_same hm']
    · rw [memRead_memWrite_other hb, memRead_memWrite_other hb, h]

section
variable {a : Nat} {s s' : State}

/-- A run that does not hold the byte at `a` reads alike. -/
theorem AgreeOffMagic.memReadBytes_eq (h : AgreeOffMagic a s s') {base n : Nat} (hn : ∀ i < n, base + i ≠ a) :
    memReadBytes s'.mem base n = memReadBytes s.mem base n :=
  memReadBytes_congr fun i hi => h.memory _ (hn i hi)

/-- The header byte at `a` stands before the payload. -/
theorem AgreeOffMagic.readPayload_eq (h : AgreeOffMagic a s s') (ha : a < payloadAddr s) (n : Nat) :
    readPayload n s' = readPayload n s := by
  have hp : payloadAddr s' = payloadAddr s := by obtain ⟨m, g0, g1, g2, g3, rfl⟩ := h.registers; rfl
  rw [readPayload, hp, h.memReadBytes_eq fun i _ => by omega, readPayload]

theorem AgreeOffMagic.completeDiag (h : AgreeOffMagic a s s') (code : ErrCode) (r x y : Word) :
    AgreeOffMagic a (completeDiag code r x y s) (completeDiag code r x y s') := by
  obtain ⟨⟨m, g0, g1, g2, g3, rfl⟩, hmem, hwf, hwf'⟩ := h
  exact ⟨⟨m, g0, g1, g2, g3, rfl⟩, hmem, hwf, hwf'⟩

theorem AgreeOffMagic.writeWindow (h : AgreeOffMagic a s s') (bs : List Byte) :
    AgreeOffMagic a (writeWindow bs s) (writeWindow bs s') := by
  obtain ⟨⟨m, g0, g1, g2, g3, rfl⟩, hmem, hwf, hwf'⟩ := h
  exact ⟨⟨_, g0, g1, g2, g3, rfl⟩, fun b hb => memRead_memWriteBytes_congr hwf hwf' (hmem b hb) _ bs,
    memWriteBytes_wf hwf _ _, memWriteBytes_wf hwf' _ _⟩

/-- The checksum step reads memory through its window only (42_checksum.md R183). -/
theorem AgreeOffMagic.verify (h : AgreeOffMagic a s s') {f : Fields}
    (hw : ∀ i < f.olen.toNat, (windowBase s).toNat + i ≠ a) (e : Engine) :
    AgreeOffMagic a (verify e f s) (verify e f s') := by
  have hread : memReadBytes s'.mem (windowBase s).toNat f.olen.toNat = readWindow f s := h.memReadBytes_eq hw
  obtain ⟨⟨m, g0, g1, g2, g3, rfl⟩, hmem, hwf, hwf'⟩ := h
  have hwindow : readWindow f { s with mem := m, hdrMagic0 := g0, hdrMagic1 := g1, hdrMagic2 := g2, hdrMagic3 := g3 }
      = readWindow f s := hread
  rw [Machine.verify, Machine.verify, hwindow]
  split_ifs
  all_goals exact ⟨⟨m, g0, g1, g2, g3, rfl⟩, hmem, hwf, hwf'⟩

theorem AgreeOffMagic.finishPrim (h : AgreeOffMagic a s s') {f : Fields}
    (hw : ∀ i < f.olen.toNat, (windowBase s).toNat + i ≠ a) (r : PrimResult) (e : Engine) :
    AgreeOffMagic a (finishPrim r e f s) (finishPrim r e f s') := by
  rw [Machine.finishPrim, Machine.finishPrim]
  split_ifs
  · exact (h.writeWindow r.out).verify hw e
  · exact (h.writeWindow r.out).completeDiag _ _ _ _

/-- The contract checks read no byte of memory, so two such states pass them together. -/
theorem AgreeOffMagic.whenDestinationOk (h : AgreeOffMagic a s s') {cls : MethodClass} {f : Fields}
    {after after' t : State} (hafter : PathReady cls f s → AgreeOffMagic a after after')
    (e : whenDestinationOk cls f s after = .next t) (ht : t.commandFault = none) :
    ∃ t', whenDestinationOk cls f s' after' = .next t' ∧ AgreeOffMagic a t t' := by
  have hr := whenDestinationOk_notEnded e ht
  obtain rfl := whenDestinationOk_eq_after e ht
  have hr' : PathReady cls f s' := by obtain ⟨m, g0, g1, g2, g3, rfl⟩ := h.registers; exact hr
  exact ⟨after', whenDestinationOk_ready hr' after', hafter hr⟩

/-- The window of a ready path holds no byte of the header (20_memory.md R72). -/
theorem window_ne_of_header {cls : MethodClass} {f : Fields} (hr : PathReady cls f s) (hs : srcAddr s ≤ a)
    (ha : a < payloadAddr s) : ∀ i < f.olen.toNat, (windowBase s).toNat + i ≠ a := by
  obtain ⟨-, -, -, hapart⟩ := hr
  unfold payloadAddr at ha
  omega

/-- A dispatch that completes does so alike from two states that differ in a magic byte. -/
theorem AgreeOffMagic.dispatchMethod (h : AgreeOffMagic a s s') (hs : srcAddr s ≤ a) (ha : a < payloadAddr s)
    {hd : Header} {t : State} (e : dispatchMethod hd s = .next t) (ht : t.commandFault = none) :
    ∃ t', dispatchMethod hd s' = .next t' ∧ AgreeOffMagic a t t' := by
  have hcfg : s'.cfg = s.cfg := by obtain ⟨m, g0, g1, g2, g3, rfl⟩ := h.registers; rfl
  have hpayload := h.readPayload_eq ha
  rw [dispatchMethod_eq_exec] at e
  rw [dispatchMethod_eq_exec, hcfg]
  rcases methodInstr_cases s.cfg hd with ⟨-, hi⟩ | ⟨-, hi⟩ | ⟨-, hi⟩ | ⟨-, hi⟩ <;> rw [hi] at e ⊢
  · refine h.whenDestinationOk (fun hr => ?_) e ht
    rw [hpayload, hcfg]
    exact (h.writeWindow _).verify (window_ne_of_header hr hs ha) _
  · refine h.whenDestinationOk (fun hr => ?_) e ht
    rw [hpayload]
    exact h.finishPrim (window_ne_of_header hr hs ha) _ _
  · refine h.whenDestinationOk (fun hr => ?_) e ht
    rw [hpayload]
    exact h.finishPrim (window_ne_of_header hr hs ha) _ _
  · cases e
    exact ⟨_, rfl, h.completeDiag _ _ _ _⟩

end

/-- Settles O42: the two runs latch headers that differ in the magic, which no path reads, and their memories
agree on the payload and the window. -/
theorem magicIsNotValidated : Obligations.MagicIsNotValidated := by
  intro s t i b hi hwf _ h ht
  obtain ⟨hready, e⟩ := exec_decompress_notEnded h ht
  obtain ⟨m, hparse⟩ := parseHeader_memWrite_magic hi b
  have hagree : AgreeOffMagic (srcAddr s + i) (latchHeader (parseHeader s) s)
      (latchHeader (withMagic m (parseHeader s)) { s with mem := memWrite s.mem (srcAddr s + i) b }) :=
    ⟨⟨_, _, _, _, _, rfl⟩, fun _ hb => memRead_memWrite_other hb _ _, hwf, memWrite_wf hwf _ _⟩
  have hheader : srcAddr s + i < payloadAddr s := by
    unfold payloadAddr Config.headerLen
    omega
  obtain ⟨t', e', hregs, hmem, -⟩ := hagree.dispatchMethod (Nat.le_add_right _ _) hheader e ht
  refine ⟨t', ?_, ?_⟩
  · rw [exec_decompress_ready (s := { s with mem := memWrite s.mem (srcAddr s + i) b }) hready, hparse,
      dispatchMethod_withMagic, e']
  · obtain ⟨_, _, _, _, _, rfl⟩ := hregs
    exact ⟨rfl, ht, rfl, rfl, rfl, rfl, hmem⟩

end Sys2Proof.Machine
end

section
/-! PROOFS. The statements of the family 41_dispatch.md: the classes of method bytes, the row a DECOMPRESS runs,
how each path completes and what it leaves unchanged, the order of the destination checks, and the round trips. -/

namespace Sys2Proof.Machine

/-! ## The classes of method bytes -/

theorem accepts_eq_true {c : Config} {fam : Family} :
    c.accepts fam = true ↔ c.acceptForeign = true ∨ c.owner = fam := by
  simp [Config.accepts]

/-- Settles O6: OTHER is the class of the bytes that have none of the other three. -/
theorem methodByteIsClassified : Obligations.MethodByteIsClassified := by
  intro c m
  obtain ⟨hraw, ha, hb, -⟩ := classify_eq c m
  rw [accepts_eq_true] at ha hb
  refine ⟨hraw, ha, hb, ?_⟩
  rw [← ha, ← hb, ne_eq, ← hraw]
  cases classify c m <;> decide

/-! ## The row of the header at SRC -/

/-- Settles O8: the bytes decode to the row of the header that DECOMPRESS parses, which is the row it runs. -/
theorem decompressRunsHeaderInstruction : Obligations.DecompressRunsHeaderInstruction := by
  intro s n i hready hi
  have hlen : s.cfg.headerLen ≤ (memReadBytes s.mem (srcAddr s) (s.cfg.headerLen + n)).length := by
    rw [memReadBytes_length]
    exact Nat.le_add_right ..
  rw [decode_header hlen, headerOf_memReadBytes] at hi
  obtain rfl := Except.ok.inj hi
  obtain ⟨-, hrun⟩ := headerByteFaults.1 s hready
  exact hrun

/-- Settles O27: METHOD_OTHER looks at no state, and an unsupported header is of that row. -/
theorem unsupportedMethodCompletes : Obligations.UnsupportedMethodCompletes := by
  refine ⟨fun _ _ _ => rfl, fun s hready hc => ?_⟩
  refine ⟨completeDiag .unsupportedMethod 0 0 ((parseHeader s).method.setWidth 32) (latchHeader (parseHeader s) s),
    ?_, ⟨rfl, rfl, rfl, rfl, rfl⟩, rfl⟩
  rw [exec_decompress_ready hready, dispatchMethod, latchHeader_cfg, hc]
  rfl

/-! ## What a path leaves in its window and its result registers -/

section
variable {s : State} {f : Fields}

/-- The checksum step on a window just written decides by the digest of the bytes written (41_dispatch.md R154). -/
theorem verify_writeWindow_result (hm : s.mem.wf) {bs : List Byte} (hl : bs.length = f.olen.toNat) (e : Engine) :
    WindowHolds bs f s (verify e f (writeWindow bs s)) ∧
      ChecksumResult e bs f s (verify e f (writeWindow bs s)) := by
  have hread := readWindow_writeWindow hm hl
  have hcases := verify_cases e f (writeWindow bs s)
  rw [hread, writeWindow_cfg] at hcases
  refine ⟨?_, ?_⟩
  · rw [WindowHolds, verify_mem]
    exact hread
  · rcases hcases with ⟨hd, h⟩ | ⟨hd, h⟩ <;> rw [h]
    · exact ⟨fun _ => ⟨rfl, rfl, rfl, rfl, rfl⟩, fun hn => absurd hd hn⟩
    · exact ⟨fun he => absurd he hd, fun _ => ⟨rfl, rfl, rfl, rfl, rfl⟩⟩

theorem rawPath_result (hm : s.mem.wf) :
    RawResult f s (verify (ownerEngine s.cfg) f (writeWindow (readPayload f.olen.toNat s) s)) :=
  verify_writeWindow_result hm (memReadBytes_length _ _ _) _

/-- A primitive's output stands in the window whether or not its count passes the size check. -/
theorem finishPrim_result (hm : s.mem.wf) {r : PrimResult} (hl : r.out.length = f.olen.toNat) (e : Engine) :
    CodecResult r e f s (finishPrim r e f s) := by
  rcases finishPrim_cases r e f s with ⟨hn, h⟩ | ⟨hn, h⟩ <;> rw [h]
  · obtain ⟨hwindow, hsum⟩ := verify_writeWindow_result hm hl e
    exact ⟨hwindow, fun hne => absurd hn hne, fun _ => hsum⟩
  · exact ⟨readWindow_writeWindow hm hl, fun _ => ⟨⟨rfl, rfl, rfl, rfl, rfl⟩, rfl, rfl⟩, fun he => absurd he hn⟩

end

/-- Settles O28: the checks pass, and the payload is what the window then holds. -/
theorem rawPathCompletes : Obligations.RawPathCompletes := fun _ _ hm hr =>
  ⟨_, whenDestinationOk_ready hr _, rawPath_result hm⟩

/-- Settles O29: both codecs share the end of their path, and each primitive fills its capacity. -/
theorem codecPathsComplete : Obligations.CodecPathsComplete :=
  ⟨fun _ _ hm hr => ⟨_, whenDestinationOk_ready hr _, finishPrim_result hm (primA_out_length _ _) _⟩,
    fun _ _ hm hr => ⟨_, whenDestinationOk_ready hr _, finishPrim_result hm (primB_out_length _ _) _⟩⟩

/-! ## What a path leaves unchanged -/

/-- A path has completed: only memory, the accumulator, the result registers, STATUS but for LAST_OP, and the
phase may have changed (41_dispatch.md R155). -/
def PathEnd (s t : State) : Prop :=
  ∃ m acc ck code r x y, (ck = s.ckState ∨ ck = .idle) ∧
    t = completeDiag code r x y { s with mem := m, acc := acc, ckState := ck }

theorem verify_writeWindow_pathEnd (e : Engine) (f : Fields) (bs : List Byte) (s : State) :
    PathEnd s (verify e f (writeWindow bs s)) := by
  rcases verify_cases e f (writeWindow bs s) with ⟨-, h⟩ | ⟨-, h⟩
  · exact ⟨_, _, .idle, _, _, _, _, .inr rfl, h⟩
  · exact ⟨_, _, .idle, _, _, _, _, .inr rfl, h⟩

theorem finishPrim_pathEnd (r : PrimResult) (e : Engine) (f : Fields) (s : State) :
    PathEnd s (finishPrim r e f s) := by
  rcases finishPrim_cases r e f s with ⟨-, h⟩ | ⟨-, h⟩
  · rw [h]
    exact verify_writeWindow_pathEnd _ _ _ _
  · exact ⟨_, s.acc, s.ckState, _, _, _, _, .inl rfl, h⟩

/-- A row of a supported class is the checks of that class before the end of its path. -/
theorem pathInstr_eq {f : Fields} {i : Instr} (hi : i = .methodRaw f ∨ i = .methodAlgoA f ∨ i = .methodAlgoB f)
    (s : State) : ∃ cls after, exec i s = whenDestinationOk cls f s after ∧ PathEnd s after := by
  rcases hi with rfl | rfl | rfl
  · exact ⟨.raw, _, rfl, verify_writeWindow_pathEnd _ _ _ _⟩
  · exact ⟨.a, _, rfl, finishPrim_pathEnd _ _ _ _⟩
  · exact ⟨.b, _, rfl, finishPrim_pathEnd _ _ _ _⟩

theorem storeWindow_pathInstr {f : Fields} {i : Instr}
    (hi : i = .methodRaw f ∨ i = .methodAlgoA f ∨ i = .methodAlgoB f) (s : State) :
    storeWindow i s = windowOf f s := by
  rcases hi with rfl | rfl | rfl <;> rfl

/-- Settles O37: the end of a path changes no such register, and the window of a ready path is the bytes
[Wbase, Wbase + original_len). -/
theorem pathFrame : Obligations.PathFrame := by
  intro s t f i hi _ h ht
  have hmem := onlyTheWindowIsWritten i s t h
  rw [storeWindow_pathInstr hi] at hmem
  obtain ⟨cls, after, e, hend⟩ := pathInstr_eq hi s
  rw [e] at h
  obtain ⟨⟨hoff, hlen, -⟩, hw, -⟩ := whenDestinationOk_notEnded h ht
  obtain rfl := whenDestinationOk_eq_after h ht
  obtain ⟨m, acc, ck, code, r, x, y, hck, rfl⟩ := hend
  refine ⟨⟨rfl, rfl, rfl, rfl, rfl⟩, ⟨rfl, rfl, rfl, rfl, rfl, rfl, rfl, rfl⟩, ⟨rfl, rfl, rfl⟩, ⟨rfl, rfl, rfl⟩,
    rfl, rfl, rfl, fun hidle => hck.elim (·.trans hidle) id, fun a ha => hmem a ?_⟩
  rw [← Bool.not_eq_true, windowOf_covers hoff hw hlen]
  omega

/-! ## DECOMPRESS completes -/

section
variable {h : Header} {s t : State}

/-! What `MethodResult` says of each class (41_dispatch.md R145). -/

theorem methodResult_raw (hc : classify s.cfg h.method = .raw) :
    MethodResult h s t ↔ RawResult h.fields s t := by
  simp only [MethodResult, hc]

theorem methodResult_a (hc : classify s.cfg h.method = .a) :
    MethodResult h s t ↔
      CodecResult (primA (readPayload h.fields.clen.toNat s) h.fields.olen.toNat) .fast h.fields s t := by
  simp only [MethodResult, hc]

theorem methodResult_b (hc : classify s.cfg h.method = .b) :
    MethodResult h s t ↔
      CodecResult (primB (readPayload h.fields.clen.toNat s) h.fields.olen.toNat) .crc h.fields s t := by
  simp only [MethodResult, hc]

theorem methodResult_other (hc : classify s.cfg h.method = .other) :
    MethodResult h s t ↔ t.mem = s.mem ∧ Completed .unsupportedMethod 0 0 (h.method.setWidth 32) s t := by
  simp only [MethodResult, hc]

/-- A METHOD row whose contract holds completes with the outcome of its class. -/
theorem methodInstr_completes (hm : s.mem.wf)
    (hr : classify s.cfg h.method ≠ .other → PathReady (classify s.cfg h.method) h.fields s) :
    ∃ t, exec (methodInstr s.cfg h) s = .next t ∧ MethodResult h s t ∧ PathEnd s t := by
  rcases methodInstr_cases s.cfg h with ⟨hc, hi⟩ | ⟨hc, hi⟩ | ⟨hc, hi⟩ | ⟨hc, hi⟩ <;> rw [hi] <;> rw [hc] at hr
  · exact ⟨_, whenDestinationOk_ready (hr nofun) _, (methodResult_raw hc).2 (rawPath_result hm),
      verify_writeWindow_pathEnd _ _ _ _⟩
  · exact ⟨_, whenDestinationOk_ready (hr nofun) _,
      (methodResult_a hc).2 (finishPrim_result hm (primA_out_length _ _) _), finishPrim_pathEnd _ _ _ _⟩
  · exact ⟨_, whenDestinationOk_ready (hr nofun) _,
      (methodResult_b hc).2 (finishPrim_result hm (primB_out_length _ _) _), finishPrim_pathEnd _ _ _ _⟩
  · exact ⟨_, rfl, (methodResult_other hc).2 ⟨rfl, rfl, rfl, rfl, rfl, rfl⟩,
      s.mem, s.acc, s.ckState, _, _, _, _, .inl rfl, rfl⟩

theorem completed_latchHeader {code : ErrCode} {r x y : Word} :
    Completed code r x y (latchHeader h s) t ↔ Completed code r x y s t :=
  ⟨fun hc => { __ := hc }, fun hc => { __ := hc }⟩

/-- The outcome of a class reads no header register. -/
theorem methodResult_latchHeader : MethodResult h (latchHeader h s) t ↔ MethodResult h s t := by
  unfold MethodResult RawResult CodecResult ChecksumResult
  simp only [completed_latchHeader]
  rfl

end

/-- Settles O30: the row of the header completes on the latched state, and its end keeps the latch. -/
theorem decompressCompletes : Obligations.DecompressCompletes := by
  intro s hm hready hpath
  obtain ⟨t, e, hresult, hend⟩ := methodInstr_completes (s := latchHeader (parseHeader s) s) hm hpath
  obtain ⟨-, hrun⟩ := headerByteFaults.1 s hready
  have hexec : exec .decompress s = .next t := hrun.trans e
  have hmem := execDecompress_sameOutside hexec
  obtain ⟨m, acc, ck, code, r, x, y, -, rfl⟩ := hend
  exact ⟨_, hexec, ⟨rfl, rfl, rfl, rfl, rfl, rfl, rfl, rfl⟩, methodResult_latchHeader.1 hresult,
    ⟨rfl, rfl, rfl, rfl, rfl⟩, ⟨rfl, rfl, rfl⟩, ⟨rfl, rfl, rfl⟩, rfl, hmem⟩

/-! ## The destination checks of a DECOMPRESS -/

theorem takeContractFault_latchHeader_spec (r : ContractFault) (p : Footprint) (h : Header) (s : State) :
    TakesContractFault r p.writes s (takeContractFault r p (latchHeader h s)) :=
  have hspec := takeContractFault_spec r p (latchHeader h s)
  { __ := hspec, launch := { __ := hspec.launch }, host := { __ := hspec.host } }

theorem whenDestinationOk_fault {cls : MethodClass} {f : Fields} {s : State} {r : ContractFault}
    (h : checkDestination cls f s = some r) (after : State) :
    whenDestinationOk cls f s after = .next (takeContractFault r (decompressFootprint cls f s) s) := by
  rw [whenDestinationOk, h]

/-- Each supported class runs CheckDestination first. -/
theorem dispatchMethod_fault {h : Header} {s : State} {r : ContractFault} (hs : classify s.cfg h.method ≠ .other)
    (hr : checkDestination (classify s.cfg h.method) h.fields s = some r) :
    dispatchMethod h s =
      .next (takeContractFault r (decompressFootprint (classify s.cfg h.method) h.fields s) s) := by
  rw [dispatchMethod_eq_exec]
  rcases methodInstr_cases s.cfg h with ⟨hc, hi⟩ | ⟨hc, hi⟩ | ⟨hc, hi⟩ | ⟨hc, -⟩
  · rw [hi, hc]; exact whenDestinationOk_fault (hc ▸ hr) _
  · rw [hi, hc]; exact whenDestinationOk_fault (hc ▸ hr) _
  · rw [hi, hc]; exact whenDestinationOk_fault (hc ▸ hr) _
  · exact absurd hc hs

/-- A DECOMPRESS of an admitted header of a supported class ends in the fault of its destination check. -/
theorem exec_decompress_destination_fault {s : State} {r : ContractFault} (hready : HeaderReady s)
    (hs : classify s.cfg (parseHeader s).method ≠ .other)
    (hr : checkDestination (classify s.cfg (parseHeader s).method) (parseHeader s).fields s = some r) :
    ∃ t, exec .decompress s = .next t ∧ TakesContractFault r (windowOf (parseHeader s).fields s) s t :=
  ⟨_, (exec_decompress_ready hready).trans (dispatchMethod_fault (s := latchHeader (parseHeader s) s) hs hr),
    takeContractFault_latchHeader_spec r (decompressFootprint _ _ s) _ s⟩

section
variable {cls : MethodClass} {f : Fields} {s : State}

/-- With the offset and the lengths in order, the window is checked, then the footprint, then that they lie apart. -/
theorem checkDestination_lengthsReady (h : LengthsReady cls f s) :
    checkDestination cls f s =
      (checkBytes s.dstAdmit .dstOutOfBounds (windowBase s).toNat f.olen.toNat).or
        ((checkBytes s.srcAdmit .srcOutOfBounds (srcAddr s) (s.cfg.headerLen + payloadLen cls f)).or
          (if WindowApart cls f s then none else some .overlap)) := by
  obtain ⟨hoff, holen, hclen⟩ := h
  rw [checkDestination_eq, if_neg (Int.not_lt.2 hoff), if_neg (Int.not_lt.2 holen),
    if_neg fun hc => absurd (hclen hc.1) (Int.not_le.2 hc.2)]

theorem checkDestination_window (h : LengthsReady cls f s) {k : Nat} {r : ContractFault} (hk : k < f.olen.toNat)
    (hbefore : ∀ i < k, ByteReady s.dstAdmit (windowBase s).toNat i)
    (hat : byteFault s.dstAdmit .dstOutOfBounds ((windowBase s).toNat + k) = some r) :
    checkDestination cls f s = some r := by
  rw [checkDestination_lengthsReady h, checkBytes_first hk hbefore hat, Option.some_or]

theorem checkDestination_footprint (h : LengthsReady cls f s) (hw : WindowReady f s) {k : Nat} {r : ContractFault}
    (hk : k < s.cfg.headerLen + payloadLen cls f) (hbefore : ∀ i < k, ByteReady s.srcAdmit (srcAddr s) i)
    (hat : byteFault s.srcAdmit .srcOutOfBounds (srcAddr s + k) = some r) : checkDestination cls f s = some r := by
  rw [checkDestination_lengthsReady h, checkBytes_eq_none.2 hw, checkBytes_first hk hbefore hat, Option.none_or,
    Option.some_or]

theorem checkDestination_overlap (h : LengthsReady cls f s) (hw : WindowReady f s) (hf : FootprintReady cls f s)
    (hover : ¬WindowApart cls f s) : checkDestination cls f s = some .overlap := by
  rw [checkDestination_lengthsReady h, checkBytes_eq_none.2 hw, checkBytes_eq_none.2 hf, if_neg hover,
    Option.none_or, Option.none_or]

end

theorem byteFault_addressRange {rs : List Region} {oob : ContractFault} {a : Nat} (h : addrSpace ≤ a) :
    byteFault rs oob a = some .addressRange := if_pos h

theorem byteFault_notAdmitted {rs : List Region} {oob : ContractFault} {a : Nat} (h : a < addrSpace)
    (hadmit : admits rs a = false) : byteFault rs oob a = some oob := by
  rw [byteFault, if_neg (Nat.not_le.2 h), if_pos hadmit]

/-- Settles O33: each clause is the answer of CheckDestination once the checks before it have passed. -/
theorem destinationChecksInOrder : Obligations.DestinationChecksInOrder := by
  rintro s cls f hready rfl rfl hs
  have fault {r : ContractFault} := exec_decompress_destination_fault (r := r) hready hs
  refine ⟨fun hoff => fault ?_, fun hoff holen => fault ?_, fun hoff holen hraw hclen => fault ?_,
    fun hl k hk hbefore => ⟨fun hrange => fault ?_, fun hrange hadmit => fault ?_⟩,
    fun hl hw k hk hbefore => ⟨fun hrange => fault ?_, fun hrange hadmit => fault ?_⟩,
    fun hl hw hf hover => fault ?_⟩
  · rw [checkDestination_eq, if_pos hoff]
  · rw [checkDestination_eq, if_neg (Int.not_lt.2 hoff), if_pos holen]
  · rw [checkDestination_eq, if_neg (Int.not_lt.2 hoff), if_neg (Int.not_lt.2 holen), if_pos ⟨hraw, hclen⟩]
  · exact checkDestination_window hl hk hbefore (byteFault_addressRange hrange)
  · exact checkDestination_window hl hk hbefore (byteFault_notAdmitted hrange hadmit)
  · exact checkDestination_footprint hl hw hk hbefore (byteFault_addressRange hrange)
  · exact checkDestination_footprint hl hw hk hbefore (byteFault_notAdmitted hrange hadmit)
  · exact checkDestination_overlap hl hw hf hover

/-! ## The round-trip laws -/

/-- A supported byte that is a codec's code is of that codec's class: the three codes differ (00_scope.md R8). -/
theorem classify_codeA {c : Config} {m : Byte} (hm : m = c.codeA) (hs : classify c m ≠ .other) :
    classify c m = .a := by
  obtain ⟨hraw, -, hb, -⟩ := classify_eq c m
  cases hc : classify c m with
  | raw => exact absurd ((hraw.1 hc).symm.trans hm) c.raw_ne_a
  | a => rfl
  | b => exact absurd (hm.symm.trans (hb.1 hc).1) c.a_ne_b
  | other => exact absurd hc hs

theorem classify_codeB {c : Config} {m : Byte} (hm : m = c.codeB) (hs : classify c m ≠ .other) :
    classify c m = .b := by
  obtain ⟨hraw, ha, -, -⟩ := classify_eq c m
  cases hc : classify c m with
  | raw => exact absurd ((hraw.1 hc).symm.trans hm) c.raw_ne_b
  | a => exact absurd ((ha.1 hc).1.symm.trans hm) c.a_ne_b
  | b => rfl
  | other => exact absurd hc hs

/-- A block that holds the digest of its window completes with NONE and the original length. -/
theorem ChecksumResult.none_of_digest {e : Engine} {bs : List Byte} {f : Fields} {s t : State}
    (h : ChecksumResult e bs f s t) (hd : digest s.cfg e bs = f.csum) :
    t.status.errcode = .none ∧ t.result = f.olen := by
  have hc := h.1 hd
  exact ⟨by rw [hc.status]; rfl, hc.result⟩

theorem RawResult.roundTrip {f : Fields} {s t : State} {b : List Byte} (h : RawResult f s t)
    (hp : readPayload f.olen.toNat s = b) (hd : f.csum = digest s.cfg (ownerEngine s.cfg) b) :
    t.status.errcode = .none ∧ t.result = f.olen ∧ WindowHolds b f s t := by
  subst hp
  obtain ⟨hwindow, hsum⟩ := h
  obtain ⟨hcode, hresult⟩ := hsum.none_of_digest hd.symm
  exact ⟨hcode, hresult, hwindow⟩

/-- A codec block whose primitive gives back `b`, with the digest of `b`, decompresses to `b`. -/
theorem CodecResult.roundTrip {r : PrimResult} {e : Engine} {f : Fields} {s t : State} {b : List Byte}
    (h : CodecResult r e f s t) (hr : r = { count := f.olen, out := b }) (hd : f.csum = digest s.cfg e b) :
    t.status.errcode = .none ∧ t.result = f.olen ∧ WindowHolds b f s t := by
  subst hr
  obtain ⟨hwindow, -, hsum⟩ := h
  obtain ⟨hcode, hresult⟩ := (hsum rfl).none_of_digest hd.symm
  exact ⟨hcode, hresult, hwindow⟩

/-- Settles O44: the block's class is the one its method byte names, and the outcome of that class is NONE. -/
theorem roundTripLaws : Obligations.RoundTripLaws := by
  intro s h b hwf hb hm holen hmem hs hpath
  obtain rfl := headerInMemoryIsParsed s h hm hmem
  have hlen : (parseHeader s).fields.olen.toNat = b.length := by
    rw [holen, BitVec.toNat_ofNat, Nat.mod_eq_of_lt (by omega)]
  have hready : HeaderReady s := fun i hi => by
    obtain ⟨-, -, hfoot, -⟩ := hpath
    exact hfoot i (by omega)
  obtain ⟨t, e, -, hresult, -⟩ := decompressCompletes s hwf hready fun _ => hpath
  rw [← holen, ← hlen]
  refine ⟨t, e, fun hcode hp hd => ?_, fun hcode hp hd => ?_, fun hcode hp hd => ?_⟩
  · obtain ⟨hraw, -⟩ := classify_eq s.cfg (parseHeader s).method
    exact ((methodResult_raw (hraw.2 hcode)).1 hresult).roundTrip hp hd
  · exact ((methodResult_a (classify_codeA hcode hs)).1 hresult).roundTrip hp hd
  · exact ((methodResult_b (classify_codeB hcode hs)).1 hresult).roundTrip hp hd

end Sys2Proof.Machine
end

section
/-! PROOFS. The statements of the family 42_checksum.md: the spec's digests, the accumulator against the digest of
the whole, a flipped bit of the checksum field, and what earlier commands leave. -/

namespace Sys2Proof.Machine

/-! ## The engines -/

/-- Settles O39: each engine run on the spec's own strings. -/
theorem digestKnownValues : Obligations.DigestKnownValues :=
  ⟨by decide +kernel, by decide, by decide, by decide, by decide, by decide⟩

/-! ## The accumulator -/

/-- Chunks fed in order are their concatenation fed at once (42_checksum.md R181). -/
theorem foldl_accUpdate (acc : Acc) (chunks : List (List Byte)) :
    chunks.foldl accUpdate acc = accUpdate acc chunks.flatten :=
  List.foldl_flatten.symm

theorem accUpdate_crc (r : Word) (bs : List Byte) : accUpdate (.crc r) bs = .crc (bs.foldl crcByte r) := by
  induction bs generalizing r with
  | nil => rfl
  | cons b bs ih => exact ih (crcByte r b)

theorem wordAt_append {bs : List Byte} {k : Nat} (h : k + 3 < bs.length) (rest : List Byte) :
    wordAt (bs ++ rest) k = wordAt bs k := by
  simp only [wordAt, byteAt]
  rw [List.getD_append _ _ _ _ (by omega), List.getD_append _ _ _ _ (by omega), List.getD_append _ _ _ _ (by omega),
    List.getD_append _ _ _ _ h]

/-- A stripe is the first 16 bytes, whatever follows them. -/
theorem lanesStripe_append (v : Lanes) {bs : List Byte} (h : bs.length = 16) (rest : List Byte) :
    lanesStripe v (bs ++ rest) = lanesStripe v bs := by
  simp only [lanesStripe]
  rw [wordAt_append (by omega), wordAt_append (by omega), wordAt_append (by omega), wordAt_append (by omega)]

/-- The fast accumulator over a buffer that is short of a stripe: the lanes hold the whole stripes of the buffer and
the new bytes, the buffer what is left of them (42_checksum.md R175, 10_state.md R22). -/
theorem accUpdate_fast (v : Lanes) (n : Nat) {buf : List Byte} (hbuf : buf.length < 16) (bs : List Byte) :
    accUpdate (.fast v n buf) bs =
      .fast (lanesStripes ((buf ++ bs).length / 16) v (buf ++ bs)) (n + bs.length)
        ((buf ++ bs).drop (16 * ((buf ++ bs).length / 16))) := by
  induction bs generalizing v n buf with
  | nil => rw [List.append_nil, Nat.div_eq_of_lt hbuf]; rfl
  | cons b bs ih =>
    have hcount : n + 1 + bs.length = n + (b :: bs).length := by
      rw [List.length_cons]
      omega
    have hsplit : buf ++ b :: bs = (buf ++ [b]) ++ bs := by simp
    have hfold : accUpdate (.fast v n buf) (b :: bs) = accUpdate (accByte (.fast v n buf) b) bs := rfl
    rw [hfold, accByte, hsplit]
    split_ifs with hfull
    · have hstripe : (buf ++ [b]).length = 16 := by simpa using hfull
      have hwhole : (buf ++ [b] ++ bs).length / 16 = bs.length / 16 + 1 := by
        rw [List.length_append]
        omega
      have hrest : (buf ++ [b] ++ bs).drop 16 = bs := List.drop_left' hstripe
      rw [ih _ _ (by decide), hwhole, lanesStripes, lanesStripe_append v hstripe, hrest, Nat.mul_succ,
        Nat.add_comm _ 16, ← List.drop_drop, hrest, hcount]
      rfl
    · have hshort : (buf ++ [b]).length < 16 := by
        rw [List.length_append, List.length_singleton]
        omega
      rw [ih _ _ hshort, hcount]

theorem accUpdate_accReset_fast (c : Config) (bs : List Byte) :
    accUpdate (accReset c .fast) bs =
      .fast (lanesStripes (bs.length / 16) (lanesInit c.fastSeed) bs) bs.length (bs.drop (16 * (bs.length / 16))) := by
  rw [accReset, accUpdate_fast _ _ (by decide), List.nil_append, Nat.zero_add]

/-- Before the first stripe lane 3 still holds the seed, so the accumulator's digest starts as XXH32 does. -/
theorem accDigest_accUpdate_accReset (c : Config) (e : Engine) (bs : List Byte) :
    accDigest c (accUpdate (accReset c e) bs) = digest c e bs := by
  cases e with
  | crc => rw [accReset, accUpdate_crc]; rfl
  | fast =>
    rw [accUpdate_accReset_fast, digest, fastDigest, xxh32, accDigest]
    by_cases hlong : 16 ≤ bs.length
    · simp only [if_pos hlong]
    · have hnone : bs.length / 16 = 0 := Nat.div_eq_of_lt (Nat.not_le.1 hlong)
      simp only [if_neg hlong, hnone, lanesStripes, lanesInit]

/-- Settles O40: the chunks are their concatenation fed at once, which the accumulator digests as the engine does. -/
theorem accumulatorComputesDigest : Obligations.AccumulatorComputesDigest := fun c e chunks => by
  rw [foldl_accUpdate, accDigest_accUpdate_accReset]

/-! ## A flipped bit of the checksum field -/

/-- A header with another checksum. -/
def withChecksum (c : Word) (h : Header) : Header := { h with fields := { h.fields with csum := c } }

theorem wordByte_readField (s : State) (k : Nat) {j : Nat} (hj : j < 4) :
    wordByte (readField s k) j = memRead s.mem (srcAddr s + k + j) := by
  obtain ⟨h0, h1, h2, h3⟩ := wordByte_le32 (memRead s.mem (srcAddr s + k)) (memRead s.mem (srcAddr s + k + 1))
    (memRead s.mem (srcAddr s + k + 2)) (memRead s.mem (srcAddr s + k + 3))
  interval_cases j
  · exact h0
  · exact h1
  · exact h2
  · exact h3

/-- Writing another value to a byte of a field changes the field. -/
theorem readField_memWrite_ne {s : State} (hm : s.mem.wf) (k : Nat) {j : Nat} (hj : j < 4) {b : Byte}
    (hb : b ≠ memRead s.mem (srcAddr s + k + j)) :
    readField { s with mem := memWrite s.mem (srcAddr s + k + j) b } k ≠ readField s k := by
  intro he
  have hnew : wordByte (readField { s with mem := memWrite s.mem (srcAddr s + k + j) b } k) j = b :=
    (wordByte_readField _ k hj).trans (memRead_memWrite_same hm _ b)
  exact hb (by rw [← hnew, he, wordByte_readField s k hj])

/-- A write above a field leaves it. -/
theorem readField_memWrite_above {s : State} {a k : Nat} (h : srcAddr s + k + 3 < a) (b : Byte) :
    readField { s with mem := memWrite s.mem a b } k = readField s k := by
  have hs : srcAddr { s with mem := memWrite s.mem a b } = srcAddr s := rfl
  rw [readField, hs, memRead_memWrite_other (by omega), memRead_memWrite_other (by omega),
    memRead_memWrite_other (by omega), memRead_memWrite_other (by omega), readField]

/-- A write at or above the checksum field changes at most the checksum of the parsed header. -/
theorem parseHeader_memWrite_checksum {s : State} {a : Nat} (h : srcAddr s + (s.cfg.magicLen + 9) ≤ a) (b : Byte) :
    parseHeader { s with mem := memWrite s.mem a b } =
      withChecksum (readField { s with mem := memWrite s.mem a b } (s.cfg.magicLen + 9)) (parseHeader s) := by
  have hmethod : memRead (memWrite s.mem a b) (srcAddr s + s.cfg.magicLen) =
      memRead s.mem (srcAddr s + s.cfg.magicLen) := memRead_memWrite_other (by omega) _ _
  have hmagic : memReadBytes (memWrite s.mem a b) (srcAddr s) s.cfg.magicLen =
      memReadBytes s.mem (srcAddr s) s.cfg.magicLen :=
    memReadBytes_congr fun i hi => memRead_memWrite_other (by omega) _ _
  have hclen := readField_memWrite_above (s := s) (a := a) (k := s.cfg.magicLen + 1) (by omega) b
  have holen := readField_memWrite_above (s := s) (a := a) (k := s.cfg.magicLen + 5) (by omega) b
  have hs : srcAddr { s with mem := memWrite s.mem a b } = srcAddr s := rfl
  simp only [parseHeader, withChecksum, hs, hmethod, hmagic, hclen, holen]

/-- A header byte stands before the payload. -/
theorem readPayload_memWrite_header {s : State} {a : Nat} (h : a < payloadAddr s) (b : Byte) (n : Nat) :
    readPayload n { s with mem := memWrite s.mem a b } = readPayload n s :=
  memReadBytes_congr fun i _ => memRead_memWrite_other (Nat.ne_of_gt (Nat.lt_add_right i h)) _ _

section
variable {s s' t t' : State} {c : Word}

/-- The same bytes against two checksums: where one end is NONE the other is CHECKSUM_MISMATCH with that digest. -/
theorem ChecksumResult.mismatch_of_none {e : Engine} {bs : List Byte} {f : Fields} (h : ChecksumResult e bs f s t)
    (hn : t.status.errcode = .none) (h' : ChecksumResult e bs { f with csum := c } s' t') (hc : c ≠ f.csum)
    (hcfg : s'.cfg = s.cfg) : Completed .checksumMismatch 0 c t.diagActual s' t' := by
  by_cases hd : digest s.cfg e bs = f.csum
  · have hactual : t.diagActual = digest s'.cfg e bs := by rw [(h.1 hd).diagActual, hcfg, hd]
    rw [hactual]
    exact h'.2 (by rw [hcfg, hd]; exact hc.symm)
  · rw [(h.2 hd).status] at hn
    cases hn

theorem CodecResult.mismatch_of_none {r : PrimResult} {e : Engine} {f : Fields} (h : CodecResult r e f s t)
    (hn : t.status.errcode = .none) (h' : CodecResult r e { f with csum := c } s' t') (hc : c ≠ f.csum)
    (hcfg : s'.cfg = s.cfg) : Completed .checksumMismatch 0 c t.diagActual s' t' := by
  obtain ⟨-, hsize, hsum⟩ := h
  obtain ⟨-, -, hsum'⟩ := h'
  by_cases hcount : r.count = f.olen
  · exact (hsum hcount).mismatch_of_none hn (hsum' hcount) hc hcfg
  · obtain ⟨hend, -⟩ := hsize hcount
    rw [hend.status] at hn
    cases hn

/-- The same payload under two checksums, class by class (42_checksum.md R188). -/
theorem MethodResult.mismatch_of_none {h : Header} (hr : MethodResult h s t) (hn : t.status.errcode = .none)
    (hr' : MethodResult (withChecksum c h) s' t') (hc : c ≠ h.fields.csum) (hcfg : s'.cfg = s.cfg)
    (hp : ∀ n, readPayload n s' = readPayload n s) : Completed .checksumMismatch 0 c t.diagActual s' t' := by
  have hclass : classify s'.cfg (withChecksum c h).method = classify s.cfg h.method := by rw [hcfg]; rfl
  cases hm : classify s.cfg h.method with
  | raw =>
    obtain ⟨-, hsum⟩ := (methodResult_raw hm).1 hr
    obtain ⟨-, hsum'⟩ := (methodResult_raw (hclass.trans hm)).1 hr'
    rw [hp, hcfg] at hsum'
    exact hsum.mismatch_of_none hn hsum' hc hcfg
  | a =>
    have hcodec := (methodResult_a (hclass.trans hm)).1 hr'
    rw [hp] at hcodec
    exact ((methodResult_a hm).1 hr).mismatch_of_none hn hcodec hc hcfg
  | b =>
    have hcodec := (methodResult_b (hclass.trans hm)).1 hr'
    rw [hp] at hcodec
    exact ((methodResult_b hm).1 hr).mismatch_of_none hn hcodec hc hcfg
  | other =>
    obtain ⟨-, hend⟩ := (methodResult_other hm).1 hr
    rw [hend.status] at hn
    cases hn

/-- A dispatch of a supported class that no contract fault ends has passed the checks of its class. -/
theorem dispatchMethod_pathReady {h : Header} (e : dispatchMethod h s = .next t) (ht : t.commandFault = none)
    (hs : classify s.cfg h.method ≠ .other) : PathReady (classify s.cfg h.method) h.fields s := by
  by_contra hn
  obtain ⟨r, hr⟩ := Option.ne_none_iff_exists'.1 (mt checkDestination_eq_none.1 hn)
  cases (dispatchMethod_fault hs hr).symm.trans e
  exact absurd ht (takeContractFault_commandFault_ne_none _ _ _)

/-- A DECOMPRESS whose contract holds completes with the outcome of its class, and marks no fault. -/
theorem exec_decompress_methodResult (hm : s.mem.wf) (hready : HeaderReady s)
    (hpath : classify s.cfg (parseHeader s).method ≠ .other →
      PathReady (classify s.cfg (parseHeader s).method) (parseHeader s).fields s) :
    ∃ t, exec .decompress s = .next t ∧ MethodResult (parseHeader s) s t ∧ t.fault = s.fault ∧
      t.commandFault = s.commandFault := by
  obtain ⟨t, e, hresult, hend⟩ := methodInstr_completes (s := latchHeader (parseHeader s) s) hm hpath
  refine ⟨t, ?_, methodResult_latchHeader.1 hresult, ?_⟩
  · rw [exec_decompress_ready hready, dispatchMethod_eq_exec, e]
  · obtain ⟨_, _, _, _, _, _, _, -, rfl⟩ := hend
    exact ⟨rfl, rfl⟩

/-- Changing the checksum of a block that completes with NONE: the two runs write the same bytes to their windows, so
the second compares the digest of the first with another checksum (42_checksum.md R183, R184). -/
theorem exec_decompress_memWrite_checksum (hm : s.mem.wf) (h : exec .decompress s = .next t)
    (ht : t.commandFault = none) (hn : t.status.errcode = .none) {a : Nat} {b : Byte}
    (hfield : srcAddr s + (s.cfg.magicLen + 9) ≤ a) (hheader : a < payloadAddr s)
    (hcsum : readField { s with mem := memWrite s.mem a b } (s.cfg.magicLen + 9) ≠ readField s (s.cfg.magicLen + 9)) :
    ∃ t', exec .decompress { s with mem := memWrite s.mem a b } = .next t' ∧ t'.fault = t.fault ∧
      t'.commandFault = s.commandFault ∧
      Completed .checksumMismatch 0 (readField { s with mem := memWrite s.mem a b } (s.cfg.magicLen + 9))
        t.diagActual s t' := by
  obtain ⟨hready, e⟩ := exec_decompress_notEnded h ht
  have hpath := dispatchMethod_pathReady e ht
  obtain ⟨u, hu, hresult, hfault, -⟩ := exec_decompress_methodResult hm hready hpath
  cases hu.symm.trans h
  have hparse := parseHeader_memWrite_checksum hfield b
  obtain ⟨t', e', hresult', hfault', hc'⟩ := exec_decompress_methodResult
    (s := { s with mem := memWrite s.mem a b }) (memWrite_wf hm a b) hready (by rw [hparse]; exact hpath)
  rw [hparse] at hresult'
  have hend := hresult.mismatch_of_none hn hresult' hcsum rfl (readPayload_memWrite_header hheader b)
  exact ⟨t', e', hfault'.trans hfault.symm, hc', { __ := hend }⟩

end

/-- Flipping a bit of a byte changes it. -/
theorem xor_bit_ne (b : Byte) {i : Nat} (hi : i < 8) : b ^^^ (1#8 <<< i) ≠ b := by
  intro he
  have hzero : 1#8 <<< i = 0#8 := by simpa using he
  interval_cases i <;> exact absurd hzero (by decide)

/-- Settles O41: flipping a bit of a byte of the field changes the checksum. -/
theorem checksumBitFlipIsDetected : Obligations.ChecksumBitFlipIsDetected := by
  intro s t k hk hm hc h ht hn
  have hadd : srcAddr s + s.cfg.magicLen + 9 = srcAddr s + (s.cfg.magicLen + 9) := Nat.add_assoc ..
  have hheader : srcAddr s + (s.cfg.magicLen + 9) + k / 8 < payloadAddr s := by
    unfold payloadAddr Config.headerLen
    omega
  have hcsum := readField_memWrite_ne hm (s.cfg.magicLen + 9) (j := k / 8) (by omega)
    (xor_bit_ne _ (Nat.mod_lt k (by decide)))
  obtain ⟨t', e', hfault, hc', hend⟩ :=
    exec_decompress_memWrite_checksum hm h ht hn (Nat.le_add_right _ _) hheader hcsum
  have hstatus := hend.status
  simp only [hadd]
  exact ⟨t', e', hfault, hc'.trans hc, by rw [hstatus]; rfl, by rw [hstatus]; rfl, by rw [hstatus]; rfl, hend.result,
    hend.diagActual⟩

/-! ## What earlier commands left -/

section
variable {s s' t : State}

/-! Two states with the same operands answer alike wherever a command reads its operands. -/

theorem AgreeOnInputs.srcAddr_eq (h : AgreeOnInputs s s') : srcAddr s' = srcAddr s := by
  rw [srcAddr, srcAddr, h.arguments.srcAddrHi, h.arguments.srcAddrLo]

theorem AgreeOnInputs.dstOffset_eq (h : AgreeOnInputs s s') : dstOffset s' = dstOffset s := by
  rw [dstOffset, dstOffset, h.arguments.dstOff]

theorem AgreeOnInputs.windowBase_eq (h : AgreeOnInputs s s') : windowBase s' = windowBase s := by
  rw [windowBase, windowBase, h.dstOffset_eq, dstAddr, dstAddr, h.arguments.dstAddrHi, h.arguments.dstAddrLo]

theorem AgreeOnInputs.parseHeader_eq (h : AgreeOnInputs s s') : parseHeader s' = parseHeader s :=
  parseHeader_congr h.srcAddr_eq h.launch.cfg fun _ _ => by rw [h.mem]

theorem AgreeOnInputs.headerReady (h : AgreeOnInputs s s') (hr : HeaderReady s) : HeaderReady s' := by
  rw [HeaderReady, h.launch.cfg, h.launch.srcAdmit, h.srcAddr_eq]
  exact hr

theorem AgreeOnInputs.pathReady (h : AgreeOnInputs s s') {cls : MethodClass} {f : Fields} (hr : PathReady cls f s) :
    PathReady cls f s' := by
  rw [PathReady, LengthsReady, WindowReady, FootprintReady, WindowApart, h.dstOffset_eq, h.windowBase_eq,
    h.srcAddr_eq, h.launch.cfg, h.launch.srcAdmit, h.launch.dstAdmit]
  exact hr

theorem AgreeOnInputs.readPayload_eq (h : AgreeOnInputs s s') (n : Nat) : readPayload n s' = readPayload n s := by
  rw [readPayload, readPayload, payloadAddr, payloadAddr, h.srcAddr_eq, h.launch.cfg, h.mem]

theorem AgreeOnInputs.readWindow_eq (h : AgreeOnInputs s s') (f : Fields) : readWindow f s' = readWindow f s := by
  rw [readWindow, readWindow, h.windowBase_eq, h.mem]

/-- Two states with the same operands and the same latched header. -/
structure AgreeOnLatch (s s' : State) : Prop extends AgreeOnInputs s s' where
  header : SameHeaderRegs s s'

theorem AgreeOnInputs.latchHeader (h : AgreeOnInputs s s') (hd : Header) :
    AgreeOnLatch (latchHeader hd s) (latchHeader hd s') where
  launch := { __ := h.launch }
  arguments := { __ := h.arguments }
  mem := h.mem
  lastOp := h.lastOp
  header := ⟨rfl, rfl, rfl, rfl, rfl, rfl, rfl, rfl⟩

theorem AgreeOnLatch.writeWindow (h : AgreeOnLatch s s') (bs : List Byte) :
    AgreeOnLatch (writeWindow bs s) (writeWindow bs s') where
  launch := { __ := h.launch }
  arguments := { __ := h.arguments }
  mem := by rw [writeWindow_mem, writeWindow_mem, h.windowBase_eq, h.mem]
  lastOp := h.lastOp
  header := { __ := h.header }

theorem AgreeOnLatch.runAccumulator (h : AgreeOnLatch s s') (e : Engine) (bs : List Byte) :
    AgreeOnLatch (runAccumulator e bs s) (runAccumulator e bs s') where
  launch := { __ := h.launch }
  arguments := { __ := h.arguments }
  mem := h.mem
  lastOp := h.lastOp
  header := { __ := h.header }

theorem AgreeOnLatch.completeDiag (h : AgreeOnLatch s s') (code : ErrCode) (r x y : Word) :
    SameOutcome (completeDiag code r x y s) (completeDiag code r x y s') where
  phase := rfl
  status := by rw [completeDiag_status, completeDiag_status, statusCompleted, statusCompleted, h.lastOp]
  result := rfl
  diagExpected := rfl
  diagActual := rfl
  header := { __ := h.header }
  mem := h.mem

/-- The digest is that of the window, whatever the accumulator held (42_checksum.md R185). -/
theorem AgreeOnLatch.verify (h : AgreeOnLatch s s') (e : Engine) (f : Fields) :
    SameOutcome (verify e f s) (verify e f s') := by
  rw [Machine.verify, Machine.verify, h.readWindow_eq, h.launch.cfg]
  split_ifs
  · exact (h.runAccumulator e _).completeDiag _ _ _ _
  · exact (h.runAccumulator e _).completeDiag _ _ _ _

theorem AgreeOnLatch.finishPrim (h : AgreeOnLatch s s') (r : PrimResult) (e : Engine) (f : Fields) :
    SameOutcome (finishPrim r e f s) (finishPrim r e f s') := by
  rw [Machine.finishPrim, Machine.finishPrim]
  split_ifs
  · exact (h.writeWindow r.out).verify e f
  · exact (h.writeWindow r.out).completeDiag _ _ _ _

/-- The contract checks read operands only, so two such states pass them together. -/
theorem AgreeOnInputs.whenDestinationOk (h : AgreeOnInputs s s') {cls : MethodClass} {f : Fields}
    {after after' : State} (hafter : SameOutcome after after') (hend : CommandCompletes s' after')
    (e : whenDestinationOk cls f s after = .next t) (ht : t.commandFault = none) :
    ∃ t', whenDestinationOk cls f s' after' = .next t' ∧ CommandCompletes s' t' ∧ SameOutcome t t' := by
  have hr := whenDestinationOk_notEnded e ht
  obtain rfl := whenDestinationOk_eq_after e ht
  exact ⟨after', whenDestinationOk_ready (h.pathReady hr) after', hend, hafter⟩

/-- A dispatch that completes does so alike from two states with the same operands and latched header. -/
theorem AgreeOnLatch.dispatchMethod (h : AgreeOnLatch s s') {hd : Header} (e : dispatchMethod hd s = .next t)
    (ht : t.commandFault = none) :
    ∃ t', dispatchMethod hd s' = .next t' ∧ CommandCompletes s' t' ∧ SameOutcome t t' := by
  have hcfg := h.launch.cfg
  rw [dispatchMethod_eq_exec] at e
  rw [dispatchMethod_eq_exec, hcfg]
  rcases methodInstr_cases s.cfg hd with ⟨-, hi⟩ | ⟨-, hi⟩ | ⟨-, hi⟩ | ⟨-, hi⟩ <;> rw [hi] at e ⊢
  · refine h.whenDestinationOk ?_ (verify_completes _ _ rfl rfl) e ht
    rw [h.readPayload_eq, hcfg]
    exact (h.writeWindow _).verify _ _
  · refine h.whenDestinationOk ?_ (finishPrim_completes _ _ _ rfl rfl) e ht
    rw [h.readPayload_eq]
    exact h.finishPrim _ _ _
  · refine h.whenDestinationOk ?_ (finishPrim_completes _ _ _ rfl rfl) e ht
    rw [h.readPayload_eq]
    exact h.finishPrim _ _ _
  · cases e
    exact ⟨_, rfl, completeDiag_completes _ _ _ _ rfl rfl, h.completeDiag _ _ _ _⟩

end

/-- Settles O43: the two runs latch the same header and then read operands only. -/
theorem noStateCrossesCommands : Obligations.NoStateCrossesCommands := by
  intro s s' t h _ hc' he ht
  obtain ⟨hready, e⟩ := exec_decompress_notEnded he ht
  obtain ⟨t', e', hend, hsame⟩ := (h.latchHeader (parseHeader s)).dispatchMethod e ht
  refine ⟨t', ?_, hend.commandFault.trans hc', hend.fault, hsame⟩
  rw [exec_decompress_ready (h.headerReady hready), h.parseHeader_eq, e']

end Sys2Proof.Machine
end

section
/-! PROOFS. The statements of the family 43_register_access.md: register reads and writes in IDLE and while
PENDING, the accesses that are refused, and the command a CMD write starts. -/

namespace Sys2Proof.Machine

/-! ## Register reads -/

/-- A read of STATUS returns it in every phase (43_register_access.md R200, R204). -/
theorem exec_regRead_status (s : State) :
    exec (.regRead 0x04) s = .next { s with readData := statusWord s.status } := by
  simp [exec, execRegRead, regValue]

/-- While PENDING a read of any other register returns a draw (43_register_access.md R204). -/
theorem exec_regRead_pending {s : State} {off : Byte} (hp : s.phase = .pending) (ho : off.toNat % 4 = 0)
    (hs : off ≠ 0x04) : exec (.regRead off) s = .next (drawRead s) := by
  rw [exec, execRegRead, if_neg (not_not.2 ho), if_pos ⟨hp, hs⟩]

/-- Settles O17: each offset of the map is aligned, and its `regValue` is the register that stands there. -/
theorem idleReadReturnsRegister : Obligations.IdleReadReturnsRegister := by
  intro s hp
  and_intros <;> exact exec_regRead_idle hp rfl

/-- Settles O18: only STATUS is not drawn. -/
theorem pendingReadReturnsDraw : Obligations.PendingReadReturnsDraw :=
  fun s hp => ⟨exec_regRead_status s, fun _ ho hs => ⟨_, _, exec_regRead_pending hp ho hs⟩⟩

/-! ## Register writes -/

theorem exec_regWriteIgnored_aligned {off : Byte} (ho : off.toNat % 4 = 0) (d : Word) (s : State) :
    exec (.regWriteIgnored off d) s = whenIdle s s := by
  rw [exec, execRegWriteIgnored, if_neg (not_not.2 ho)]

/-- A register write that an encoding gives waits for IDLE, and its effect there leaves the fault mark. -/
theorem exec_regWrite_of_wf {i : Instr} {c : Config} (hi : isRegWrite i = true) (hw : i.wf c = true) (s : State) :
    ∃ t, exec i s = whenIdle s t ∧ t.fault = s.fault := by
  cases i with
  | regWriteIgnored off d =>
    have ho : off.toNat % 4 = 0 := beq_iff_eq.1 (Bool.and_eq_true_iff.1 hw).1
    exact ⟨s, exec_regWriteIgnored_aligned ho d s, rfl⟩
  | regWriteCmd d | regWriteSrcAddrLo d | regWriteSrcAddrHi d | regWriteDstAddrLo d | regWriteDstAddrHi d
  | regWriteDstOff d => exact ⟨_, rfl, rfl⟩
  | _ => cases hi

/-- A write that waits for IDLE takes BusyWrite while PENDING (43_register_access.md R206). -/
theorem whenIdle_busyWrite {s : State} (hp : s.phase = .pending) (after : State) :
    ∃ t, whenIdle s after = .next t ∧ TakesContractFault .busyWrite (pendingWindow s) s t :=
  ⟨_, whenIdle_pending hp after, takeContractFault_spec _ _ _⟩

/-- Settles O23: each of the writes waits for IDLE, and there it is its register's update, or none. -/
theorem argumentWritesStore : Obligations.ArgumentWritesStore := by
  refine ⟨fun s d hp => ?_, fun s d hp i hi => ?_, fun s d off hp ho => ?_⟩
  · exact ⟨whenIdle_idle hp _, whenIdle_idle hp _, whenIdle_idle hp _, whenIdle_idle hp _, whenIdle_idle hp _,
      fun _ ho => exec_regWriteIgnored_idle hp ho d⟩
  · fin_cases hi <;> exact whenIdle_busyWrite hp _
  · rw [exec_regWriteIgnored_aligned ho]
    exact whenIdle_busyWrite hp _

/-- Settles O24: every register write that an encoding gives waits for IDLE. -/
theorem pendingWriteIsBusyWrite : Obligations.PendingWriteIsBusyWrite := by
  intro s i hi hw hp
  obtain ⟨u, e, -⟩ := exec_regWrite_of_wf hi hw s
  obtain ⟨t, ht, hfault⟩ := whenIdle_busyWrite hp u
  exact ⟨t, e.trans ht, hfault, fun hm => by rw [hfault.mark, hm]; rfl⟩

/-! ## Commands -/

/-- The command of each OPCODE (30_encoding.md R100). -/
theorem decodeCmd_opcode (op : Byte) :
    decodeCmd (op.setWidth 32) =
      if op = 0x01 then .getOriginalLen else if op = 0x02 then .decompress else .badCommand op := by
  simp [decodeCmd]

/-- Settles O22: a CMD write waits for IDLE and issues its OPCODE, which the device step decodes. -/
theorem cmdWriteStartsCommand : Obligations.CmdWriteStartsCommand := by
  refine ⟨fun s d hp => whenIdle_idle hp _, fun s d hp => whenIdle_busyWrite hp _, fun s hd hp hc => ?_⟩
  rw [step_command hd hp hc, decodeCmd_opcode]
  split_ifs <;> rfl

/-- Settles O26: BAD_COMMAND looks at no state, and every other OPCODE decodes to it. -/
theorem badCommandCompletes : Obligations.BadCommandCompletes := by
  refine ⟨fun _ _ => rfl, fun s hd hp hc h1 h2 => ?_⟩
  rw [step_command hd hp hc, decodeCmd_badCommand h1 h2, popMove]

/-! ## Refused accesses -/

/-- A bus access that does not decode is refused (43_register_access.md R205). -/
theorem step_bus_refused {s : State} {a : BusAccess} {rest : List Event} {e : DecodeError}
    (h : s.agenda = .bus a :: rest) (he : decodeBus a = .error e) :
    ∃ t, step s = .next t ∧ RefusesAccess e a.dir { s with agenda := rest } t := by
  refine ⟨_, ?_, refuseAccess_spec e a.dir _⟩
  simp [step, fetch, h, he, popMove_eq h]

/-- An aligned 32-bit access inside the window decodes (30_encoding.md R101). -/
theorem decodeBus_wellFormed {a : BusAccess} (hw : a.width = 32) (ho : a.off < 0x100) (ha : a.off % 4 = 0) :
    ∃ i, decodeBus a = .ok i := by
  cases hd : a.dir <;> simp [decodeBus, hw, ho.not_ge, ha, hd]

/-- An access that decodes answers a next state, and sets no mark that names a refusal. -/
theorem exec_busInstr_not_refused {a : BusAccess} {i : Instr} (hi : decodeBus a = .ok i) (s : State) :
    ∃ t, exec i s = .next t ∧ ∀ e, t.fault = some (.refused e) → s.fault = some (.refused e) := by
  have hwf : i.wf s.cfg = true := decode_wf (e := .bus a) hi
  rcases decodeBus_read_or_write hi with ⟨off, rfl⟩ | hw
  · rcases execRegRead_cases off s with ⟨-, v, n, e⟩ | ⟨ho, -⟩
    · exact ⟨_, e, fun _ => id⟩
    · exact absurd (beq_iff_eq.1 hwf) ho
  · obtain ⟨u, e, hu⟩ := exec_regWrite_of_wf hw hwf s
    rcases whenIdle_cases s u with ⟨-, hidle⟩ | ⟨-, hbusy⟩
    · exact ⟨u, e.trans hidle, fun _ => (hu ▸ ·)⟩
    · refine ⟨_, e.trans hbusy, fun _ hm => ?_⟩
      rw [takeContractFault_fault, markFault_eq] at hm
      cases hf : s.fault <;> simp_all

/-- Settles O9: the decoder's checks are the three ways to be malformed, in their order. -/
theorem malformedAccessIsRefused : Obligations.MalformedAccessIsRefused := by
  intro s a rest h
  refine ⟨fun hw => step_bus_refused h ?_, fun hw ho => step_bus_refused h ?_,
    fun hw ho ha => step_bus_refused h ?_, fun hw ho ha => ?_⟩
  · rw [decodeBus, if_pos hw]
  · rw [decodeBus, if_neg (not_not.2 hw), if_pos ho]
  · rw [decodeBus, if_neg (not_not.2 hw), if_neg ho.not_ge, if_pos ha]
  · obtain ⟨i, hi⟩ := decodeBus_wellFormed hw ho ha
    obtain ⟨t, e, ht⟩ := exec_busInstr_not_refused hi { s with agenda := rest }
    exact ⟨i, t, hi, popMove_eq h ▸ step_bus h hi, e, ht⟩

end Sys2Proof.Machine
end

section
/-! PROOFS. The statements of the family 70_reset_and_hazards.md: the device's turn in IDLE and on a PENDING command,
that a refused access ends no command, and that no step changes the build or the admitted regions. -/

namespace Sys2Proof.Machine

/-! ## The device's turn in IDLE -/

theorem step_device_idle {s : State} (hd : DeviceMoves s) (hp : s.phase = .idle) : step s = .next (popMove s) := by
  simp [step, fetch_device hd, deviceTurn, hp]

/-- Settles O10: the turn answers the state from which its move has been taken. -/
theorem idleDeviceWaits : Obligations.IdleDeviceWaits := fun _ => step_device_idle

/-! ## The device's turn on a PENDING command -/

/-- The device step of a command that no contract fault has ended completes it or takes a contract fault
(70_reset_and_hazards.md R258). -/
theorem step_command_ends {s : State} (hd : DeviceMoves s) (hp : s.phase = .pending) (hc : s.commandFault = none) :
    ∃ t, step s = .next t ∧
      (CommandCompletes (popMove s) t ∨ ∃ r w, TakesContractFault r w (popMove s) t) := by
  rw [step_command hd hp hc]
  rcases command_ends (popMove s) with ⟨t, e, ht⟩ | ⟨r, u, rfl | rfl, e⟩
  · exact ⟨t, e, .inl ht⟩
  · exact ⟨_, e, .inr ⟨r, _, takeContractFault_spec r _ _⟩⟩
  · exact ⟨_, e, .inr ⟨r, _, takeContractFault_latchHeader_spec r _ _ _⟩⟩

/-- Settles O11: a fault's reason is in the mark when the mark was clear, and ends a command not ended before. -/
theorem pendingCommandEnds : Obligations.PendingCommandEnds := by
  intro s hd hp hc
  obtain ⟨t, e, ht | ⟨r, w, ht⟩⟩ := step_command_ends hd hp hc
  · exact ⟨t, e, .inl ⟨ht.fault, ht.phase, ht.done, ht.busy⟩⟩
  · obtain ⟨f, hf, hfirst⟩ := ht.ended
    refine ⟨t, e, .inr ⟨r, fun hmark => ?_, f, hf, (hfirst hc).1⟩⟩
    rw [ht.mark, popMove_fault, hmark, Option.getD_none]

/-! ## A refused access and the PENDING command -/

theorem deviceMoves_of_head? {s : State} (h : s.agenda = [] ∨ s.agenda.head? = some .device) : DeviceMoves s :=
  h.imp_right fun hh => ⟨_, List.eq_cons_of_mem_head? hh⟩

/-- Settles O47: the refused access leaves the command PENDING and not ended, so the device's turn runs it. -/
theorem refusedAccessEndsNoCommand : Obligations.RefusedAccessEndsNoCommand := by
  intro s a rest e ha he hp hc hrest
  obtain ⟨t, hstep, ht⟩ := step_bus_refused ha he
  have htp : t.phase = .pending := ht.phase.trans hp
  have htc : t.commandFault = none := ht.commandFault.trans hc
  have hta : t.agenda = rest := ht.agenda
  have hop : t.status.lastOp = s.status.lastOp := congrArg Status.lastOp ht.status
  have hd : DeviceMoves t := deviceMoves_of_head? (hta.symm ▸ hrest)
  obtain ⟨u, hu, hends⟩ := step_command_ends hd htp htc
  refine ⟨t, u, hstep, hop, { __ := ht.arguments hp }, fun w i hw hi => ?_, hu, ?_⟩
  · rw [← hta]
    exact stepRunsDecodedInstruction.2 t w i hd htp htc (hw.trans hop.symm) hi
  · rcases hends with hcomp | ⟨r, w, hfault⟩
    · exact .inl ⟨hcomp.phase, hcomp.done, hcomp.busy⟩
    · obtain ⟨f, hf, -⟩ := hfault.ended
      exact .inr ⟨f, hf, hfault.phase, hfault.busy⟩

/-! ## The build and the admitted regions stay -/

theorem PathEnd.sameLaunch {s t : State} (h : PathEnd s t) : SameLaunch s t := by
  obtain ⟨_, _, _, _, _, _, _, -, rfl⟩ := h
  exact ⟨rfl, rfl, rfl⟩

theorem pathInstr_sameLaunch {f : Fields} {i : Instr}
    (hi : i = .methodRaw f ∨ i = .methodAlgoA f ∨ i = .methodAlgoB f) {s t : State} (h : exec i s = .next t) :
    SameLaunch s t := by
  obtain ⟨cls, after, e, hend⟩ := pathInstr_eq hi s
  rw [e] at h
  rcases whenDestinationOk_cases cls f s after with ⟨-, hu⟩ | ⟨r, -, hu⟩ <;> cases hu.symm.trans h
  · exact hend.sameLaunch
  · exact (takeContractFault_spec _ _ s).launch

theorem methodOther_sameLaunch {m : Byte} {f : Fields} {s t : State} (h : exec (.methodOther m f) s = .next t) :
    SameLaunch s t := by
  cases h
  exact ⟨rfl, rfl, rfl⟩

theorem methodInstr_sameLaunch {c : Config} {hd : Header} {s t : State}
    (h : exec (methodInstr c hd) s = .next t) : SameLaunch s t := by
  rcases methodInstr_cases c hd with ⟨-, hi⟩ | ⟨-, hi⟩ | ⟨-, hi⟩ | ⟨-, hi⟩ <;> rw [hi] at h
  · exact pathInstr_sameLaunch (.inl rfl) h
  · exact pathInstr_sameLaunch (.inr (.inl rfl)) h
  · exact pathInstr_sameLaunch (.inr (.inr rfl)) h
  · exact methodOther_sameLaunch h

theorem execGetOriginalLen_sameLaunch {s t : State} (h : execGetOriginalLen s = .next t) : SameLaunch s t := by
  unfold execGetOriginalLen at h
  cases hc : checkHeader s <;> rw [hc] at h <;> cases h
  · exact ⟨rfl, rfl, rfl⟩
  · exact (takeContractFault_spec _ _ s).launch

theorem execDecompress_sameLaunch {s t : State} (h : execDecompress s = .next t) : SameLaunch s t := by
  rcases execDecompress_cases s with ⟨-, e⟩ | ⟨r, -, e⟩
  · rw [e, dispatchMethod_eq_exec] at h
    exact { __ := methodInstr_sameLaunch h }
  · cases e.symm.trans h
    exact (takeContractFault_spec _ _ s).launch

theorem regRead_sameLaunch {off : Byte} {s t : State} (h : exec (.regRead off) s = .next t) : SameLaunch s t := by
  rcases execRegRead_cases off s with ⟨-, v, n, e⟩ | ⟨-, e⟩ <;> cases e.symm.trans h
  · exact ⟨rfl, rfl, rfl⟩
  · exact (refuseAccess_spec _ _ s).launch

theorem WriteEffect.sameLaunch {i : Instr} {s t : State} (h : WriteEffect s i t) : SameLaunch s t := by
  cases h with
  | command d => exact ⟨rfl, rfl, rfl⟩
  | arguments _ hd =>
    obtain ⟨_, _, _, _, _, rfl⟩ := hd
    exact ⟨rfl, rfl, rfl⟩

theorem regWrite_sameLaunch {i : Instr} (hi : isRegWrite i = true) {s t : State} (h : exec i s = .next t) :
    SameLaunch s t := by
  rcases exec_regWrite_cases hi s with ⟨u, e, hu⟩ | e | e <;> cases e.symm.trans h
  · exact hu.sameLaunch
  · exact (takeContractFault_spec _ _ s).launch
  · exact (refuseAccess_spec _ _ s).launch

/-- No instruction writes the build or the admitted regions, row by row. -/
theorem exec_sameLaunch {i : Instr} {s t : State} (h : exec i s = .next t) : SameLaunch s t := by
  cases i with
  | getOriginalLen => exact execGetOriginalLen_sameLaunch h
  | decompress => exact execDecompress_sameLaunch h
  | badCommand op => cases h; exact ⟨rfl, rfl, rfl⟩
  | methodRaw f => exact pathInstr_sameLaunch (.inl rfl) h
  | methodAlgoA f => exact pathInstr_sameLaunch (.inr (.inl rfl)) h
  | methodAlgoB f => exact pathInstr_sameLaunch (.inr (.inr rfl)) h
  | methodOther m f => exact methodOther_sameLaunch h
  | regRead off => exact regRead_sameLaunch h
  | _ => exact regWrite_sameLaunch rfl h

theorem hostLoad_sameLaunch {a : Addr} {s t : State} (h : hostLoad a s = .next t) : SameLaunch s t := by
  rcases hostLoad_cases a s with ⟨-, e⟩ | ⟨-, e⟩ <;> cases e.symm.trans h <;> exact ⟨rfl, rfl, rfl⟩

theorem hostStore_sameLaunch {a : Addr} {b : Byte} {s t : State} (h : hostStore a b s = .next t) :
    SameLaunch s t := by
  rcases hostStore_cases a b s with ⟨-, e⟩ | ⟨-, -, e⟩ <;> cases e.symm.trans h <;> exact ⟨rfl, rfl, rfl⟩

/-- Settles O15, move by move: taking a move off the agenda keeps the build and the admitted regions, and so does
what follows it. -/
theorem buildAndLaunchNeverChange : Obligations.BuildAndLaunchNeverChange := by
  intro s t hstep
  suffices h : SameLaunch (popMove s) t from { __ := h }
  rcases step_cases hstep with ⟨-, -, rfl⟩ | ⟨-, -, -, e⟩ | ⟨_, _, i, -, -, e⟩ | ⟨_, _, d, -, -, rfl⟩ |
    ⟨a, _, -, e⟩ | ⟨a, b, _, -, e⟩ | ⟨_, -, rfl⟩
  · exact ⟨rfl, rfl, rfl⟩
  · exact exec_sameLaunch e
  · exact exec_sameLaunch e
  · exact (refuseAccess_spec _ _ _).launch
  · exact hostLoad_sameLaunch e
  · exact hostStore_sameLaunch e
  · exact ⟨rfl, rfl, rfl⟩

end Sys2Proof.Machine
end
